-- ==== Sys2Proof/Word.lean ====
section
/-! DEFINITION. The bit-vector types of the block (R10: every value is unsigned, bit 0 is least significant). -/

namespace Sys2Proof

/-- A byte: a bus byte, a sub-register number, a message byte. -/
abbrev Byte := BitVec 8

/-- A stimulus word (R90). -/
abbrev Word := BitVec 64

/-- A message reference, `REFW` = 32 bits (R9, D10). -/
abbrev Ref := BitVec 32

/-- A message length, `LENW` = 16 bits (R9, D10). -/
abbrev Len := BitVec 16

/-- A priority level: 0 is main context, larger is more urgent (R40, R190). -/
abbrev Level := BitVec 8

/-- The status-flag vector of one presentation (R33). -/
abbrev FlagVec := BitVec 8

/-- The sequencer's program counter `txn.step`, 3 bits (R23, R46). -/
abbrev StepNo := BitVec 3

end Sys2Proof
end

