-- ==== Sys2Proof/Config.lean ====
section
/-! DEFINITION. The names the spec enumerates, the parameters of R9, and the free values. -/

namespace Sys2Proof

/-- `txn.direction` (R21). -/
inductive Direction where
  | write
  | read
  deriving DecidableEq, Repr

/-- `txn.currentAxis`: which of the three axes is being read (R26). -/
inductive Axis where
  | x
  | y
  | z
  deriving DecidableEq, Repr

/-- The five defined status flags (R33). -/
inductive Flag where
  | sb
  | addr
  | btf
  | rxne
  | txe
  deriving DecidableEq, Repr

/-- The causes of a fatal halt (R41, R211). -/
inductive Cause where
  | sequencing
  | precondition
  deriving DecidableEq, Repr

/-- A message descriptor: a reference and a length (R34). -/
structure Desc where
  ref : Ref
  len : Len
  deriving DecidableEq, Repr

/-- The parameters of the block, the whole table of R9 (`QSLOTS` is `Config.qslots`; `REFW` and `LENW` are
the widths of `Ref` and `Len`). The state carries one value of this type and no step changes it, so what is
said of every state is said for every value of the parameters (log 3). -/
structure Config where
  periphAddr       : BitVec 7
  axisX            : Byte
  axisY            : Byte
  axisZ            : Byte
  qcap             : Nat
  pBus             : Level
  pXfer            : Level
  pCs              : Level
  hasTimeout       : Bool
  diagSequencing   : Desc
  diagPrecondition : Desc
  deriving DecidableEq, Repr

/-- The defaults of R9. R9 gives no default for the diagnostic descriptors (OPEN): reference 0 and length 1
are a DESIGN CHOICE, unsafe (log 4). -/
def Config.default : Config :=
  { periphAddr := 0x1C, axisX := 0x29, axisY := 0x2B, axisZ := 0x2D, qcap := 1024,
    pBus := 1, pXfer := 2, pCs := 2, hasTimeout := false,
    diagSequencing := ⟨0, 1⟩, diagPrecondition := ⟨0, 1⟩ }

/-- FREE VALUE (log 8). Whether the bus-event handler goes first when both requests are asserted at equal
levels: the order is open and both must be admitted (R194, U8). Applied to a counter of the state. -/
opaque Config.freeTieOrder : Nat → Bool

/-- FREE VALUE (log 7). Which of the current and the old values of an overwritten byte of a pending message is
sent: "either its old or its new value" (R76, U4). Applied to a counter of the state. -/
opaque Config.freeStaleByte : Nat → Nat

end Sys2Proof
end

