-- ==== Sys2Proof/Syntax.lean ====
section
/-! DEFINITION. The stimuli: one constructor per row of spec/opcode_table.json. -/

namespace Sys2Proof

/-- The stimuli of R92 (nine with words of their own), the second-level rows of R104 (the word of BUS_EVENT,
the step selected by the state at delivery), and the pseudo-stimuli of R107 (other spellings of the nine). -/
inductive Instr where
  /-- R93, R122. -/
  | beginWrite (register value : Byte)
  /-- R94, R123. -/
  | beginRead
  /-- R107, R124: another spelling of `beginRead`. -/
  | tick
  /-- R95, R125. -/
  | pollBusy
  /-- R96, R173. -/
  | enqueue (messageRef : Ref) (length : Len)
  /-- R97, R191. -/
  | csEnter (level : Level)
  /-- R98, R192. -/
  | csExit (level : Level)
  /-- R99, R140. -/
  | busEvent (statusFlags : FlagVec) (rxData : Byte)
  /-- R104, R144. -/
  | busEventW1 (statusFlags : FlagVec) (rxData : Byte)
  /-- R104, R145. -/
  | busEventW2 (statusFlags : FlagVec) (rxData : Byte)
  /-- R104, R146. -/
  | busEventW3 (statusFlags : FlagVec) (rxData : Byte)
  /-- R104, R147. -/
  | busEventW4 (statusFlags : FlagVec) (rxData : Byte)
  /-- R104, R148. -/
  | busEventRd1 (statusFlags : FlagVec) (rxData : Byte)
  /-- R104, R149. -/
  | busEventRd2 (statusFlags : FlagVec) (rxData : Byte)
  /-- R104, R150. -/
  | busEventRd3 (statusFlags : FlagVec) (rxData : Byte)
  /-- R104, R151. -/
  | busEventRd4 (statusFlags : FlagVec) (rxData : Byte)
  /-- R104, R152. -/
  | busEventRd5 (statusFlags : FlagVec) (rxData : Byte)
  /-- R104, R153. -/
  | busEventRd6 (statusFlags : FlagVec) (rxData : Byte)
  /-- R104, R154, R155. -/
  | busEventUndefined (statusFlags : FlagVec) (rxData : Byte)
  /-- R100, R174. -/
  | xferDone
  /-- R101, R157: exists only when `HAS_TIMEOUT`. -/
  | busTimeout
  /-- R107: `BUS_EVENT 0x01`. -/
  | evSb
  /-- R107: `BUS_EVENT 0x02`. -/
  | evAddr
  /-- R107: `BUS_EVENT 0x04`. -/
  | evBtf
  /-- R107: `BUS_EVENT 0x80`. -/
  | evTxe
  /-- R107: `BUS_EVENT 0x40, d`. -/
  | evRxne (rxData : Byte)
  /-- R107: `CS_ENTER P_CS`. -/
  | csBegin
  deriving DecidableEq, Repr

end Sys2Proof
end

