-- ==== Sys2Proof/WellFormed.lean ====
section
/-! DEFINITION. What a legal configuration is, and which stimuli exist under it. -/

namespace Sys2Proof

/-- The legal values of the parameters: R9's ranges that the field types do not already give, and the
constraints of R197 on the levels. -/
def Config.wellFormed (c : Config) : Bool :=
  decide (1 ≤ c.qcap) && decide (1 ≤ c.pBus) && decide (1 ≤ c.pXfer)
    && decide (c.pXfer ≤ c.pCs) && decide (c.pBus ≤ c.pCs)

/-- Which stimuli exist: all but BUS_TIMEOUT when `HAS_TIMEOUT` is false (R101, R103). The operand types hold
every other bound; ENQUEUE with length 0 is a legal encoding that the semantics refuse (R96). -/
def Instr.wellFormed (c : Config) : Instr → Bool
  | .busTimeout => c.hasTimeout
  | .beginWrite _ _ | .beginRead | .tick | .pollBusy | .enqueue _ _ | .csEnter _ | .csExit _
  | .busEvent _ _ | .busEventW1 _ _ | .busEventW2 _ _ | .busEventW3 _ _ | .busEventW4 _ _
  | .busEventRd1 _ _ | .busEventRd2 _ _ | .busEventRd3 _ _ | .busEventRd4 _ _ | .busEventRd5 _ _
  | .busEventRd6 _ _ | .busEventUndefined _ _ | .xferDone | .evSb | .evAddr | .evBtf | .evTxe
  | .evRxne _ | .csBegin => true

end Sys2Proof
end

