-- ==== Sys2Proof/Decode.lean ====
section
/-! DEFINITION. The decoder, total on every word and every list of bytes, and the encoder (30_encoding.md). -/

namespace Sys2Proof

/-- Bits 63:56 (R90). -/
def opField (w : Word) : Byte := w.extractLsb' 56 8

/-- Bits 55:48 (R90). -/
def aField (w : Word) : Byte := w.extractLsb' 48 8

/-- Bits 47:32 (R90). -/
def bField (w : Word) : BitVec 16 := w.extractLsb' 32 16

/-- Bits 31:0 (R90). -/
def cField (w : Word) : BitVec 32 := w.extractLsb' 0 32

/-- `b[15:8]`, bits 47:40 of the word: must be zero where only `b[7:0]` is used (R91). -/
def bHigh (w : Word) : Byte := w.extractLsb' 40 8

/-- `b[7:0]`, bits 39:32 of the word (R90). -/
def bLow (w : Word) : Byte := w.extractLsb' 32 8

/-- Why a word spells no stimulus (R103), or a list of bytes holds no word. -/
inductive DecodeError where
  /-- The `op` is not in the table of R92. -/
  | reservedOpcode (op : Byte)
  /-- A must-be-zero bit of a listed `op` is one (R91). -/
  | unusedBitsNotZero (op : Byte)
  /-- The word of BUS_TIMEOUT when `HAS_TIMEOUT` is false (R101). -/
  | noTimeout
  /-- Fewer than eight bytes are left. -/
  | truncated
  deriving DecidableEq, Repr

/-- The stimulus, if the must-be-zero bits of a listed opcode are zero (R91). -/
def whenZero (ok : Bool) (w : Word) (i : Instr) : Except DecodeError Instr :=
  if ok then .ok i else .error (.unusedBitsNotZero (opField w))

/-- The decoder reads `W[63:56]` and then checks the must-be-zero bits (R105, R92 to R103). -/
def decode (cfg : Config) (w : Word) : Except DecodeError Instr :=
  let a := aField w
  let c := cField w
  if opField w = 0x01 then whenZero (bHigh w == 0 && c == 0) w (.beginWrite a (bLow w))
  else if opField w = 0x02 then whenZero (a == 0 && bField w == 0 && c == 0) w .beginRead
  else if opField w = 0x03 then whenZero (a == 0 && bField w == 0 && c == 0) w .pollBusy
  else if opField w = 0x10 then whenZero (a == 0) w (.enqueue c (bField w))
  else if opField w = 0x20 then whenZero (bField w == 0 && c == 0) w (.csEnter a)
  else if opField w = 0x21 then whenZero (bField w == 0 && c == 0) w (.csExit a)
  else if opField w = 0x80 then whenZero (bHigh w == 0 && c == 0) w (.busEvent a (bLow w))
  else if opField w = 0x81 then whenZero (a == 0 && bField w == 0 && c == 0) w .xferDone
  else if opField w = 0x82 then
    if cfg.hasTimeout then whenZero (a == 0 && bField w == 0 && c == 0) w .busTimeout
    else .error .noTimeout
  else .error (.reservedOpcode (opField w))

/-- The stimulus a spelling stands for: a pseudo-stimulus is replaced by its expansion before encoding (R107),
and a second-level row is the BUS_EVENT of its operands (R104). -/
def Instr.expand (cfg : Config) : Instr → Instr
  | .tick => .beginRead
  | .busEventW1 f d | .busEventW2 f d | .busEventW3 f d | .busEventW4 f d
  | .busEventRd1 f d | .busEventRd2 f d | .busEventRd3 f d | .busEventRd4 f d | .busEventRd5 f d
  | .busEventRd6 f d | .busEventUndefined f d => .busEvent f d
  | .evSb => .busEvent 0x01 0
  | .evAddr => .busEvent 0x02 0
  | .evBtf => .busEvent 0x04 0
  | .evTxe => .busEvent 0x80 0
  | .evRxne d => .busEvent 0x40 d
  | .csBegin => .csEnter cfg.pCs
  | .beginWrite r v => .beginWrite r v
  | .beginRead => .beginRead
  | .pollBusy => .pollBusy
  | .enqueue r l => .enqueue r l
  | .csEnter l => .csEnter l
  | .csExit l => .csExit l
  | .busEvent f d => .busEvent f d
  | .xferDone => .xferDone
  | .busTimeout => .busTimeout

/-- `op ++ a ++ b ++ c`, the one format (R90). -/
def packWord (op a : Byte) (b : BitVec 16) (c : BitVec 32) : Word := op ++ a ++ b ++ c

/-- The word of `BUS_EVENT f, d` (R99). -/
def busEventWord (f : FlagVec) (d : Byte) : Word := packWord 0x80 f ((0 : Byte) ++ d) 0

/-- The word of `CS_ENTER level` (R97). -/
def csEnterWord (level : Level) : Word := packWord 0x20 level 0 0

/-- The word of a stimulus (R93 to R101). A pseudo-stimulus and a second-level row have the word of what they
stand for (R104, R107). -/
def encode (cfg : Config) : Instr → Word
  | .beginWrite r v => packWord 0x01 r ((0 : Byte) ++ v) 0
  | .beginRead | .tick => packWord 0x02 0 0 0
  | .pollBusy => packWord 0x03 0 0 0
  | .enqueue r l => packWord 0x10 0 l r
  | .csEnter l => csEnterWord l
  | .csExit l => packWord 0x21 l 0 0
  | .busEvent f d | .busEventW1 f d | .busEventW2 f d | .busEventW3 f d | .busEventW4 f d
  | .busEventRd1 f d | .busEventRd2 f d | .busEventRd3 f d | .busEventRd4 f d | .busEventRd5 f d
  | .busEventRd6 f d | .busEventUndefined f d => busEventWord f d
  | .xferDone => packWord 0x81 0 0 0
  | .busTimeout => packWord 0x82 0 0 0
  | .evSb => busEventWord 0x01 0
  | .evAddr => busEventWord 0x02 0
  | .evBtf => busEventWord 0x04 0
  | .evTxe => busEventWord 0x80 0
  | .evRxne d => busEventWord 0x40 d
  | .csBegin => csEnterWord cfg.pCs

/-- A word from its eight bytes, the most significant first (R68). -/
def wordOfBytes (b7 b6 b5 b4 b3 b2 b1 b0 : Byte) : Word :=
  b7 ++ b6 ++ b5 ++ b4 ++ b3 ++ b2 ++ b1 ++ b0

/-- The eight bytes of a word, the most significant (the opcode) first (R68). -/
def bytesOfWord (w : Word) : List Byte :=
  [w.extractLsb' 56 8, w.extractLsb' 48 8, w.extractLsb' 40 8, w.extractLsb' 32 8,
   w.extractLsb' 24 8, w.extractLsb' 16 8, w.extractLsb' 8 8, w.extractLsb' 0 8]

/-- The first stimulus of a byte stream and the bytes after it (R68). -/
def decodeBytes (cfg : Config) : List Byte → Except DecodeError (Instr × List Byte)
  | b7 :: b6 :: b5 :: b4 :: b3 :: b2 :: b1 :: b0 :: rest =>
    match decode cfg (wordOfBytes b7 b6 b5 b4 b3 b2 b1 b0) with
    | .ok i => .ok (i, rest)
    | .error e => .error e
  | _ => .error .truncated

/-- The bytes of a stimulus (R68). -/
def encodeBytes (cfg : Config) (i : Instr) : List Byte := bytesOfWord (encode cfg i)

/-- The word of a table row that gives `nbits` bits: the bits above them are zero. -/
def tableWord (nbits w : Nat) : Word := BitVec.ofNat 64 (w % 2 ^ nbits)

/-- The parameters under which every row of spec/opcode_table.json exists: its row BUS_TIMEOUT has the
condition `HAS_TIMEOUT` (log 5). -/
def tableConfig : Config := { Config.default with hasTimeout := true }

/-- What the decoder reads from a row's word, the rows numbered as spec/opcode_table.json numbers them (one
64-bit word, bit 0 the least significant), its conditions met (log 5). -/
def decodeTableWord (nbits w : Nat) : Option Instr :=
  match decodeBytes tableConfig (bytesOfWord (tableWord nbits w)) with
  | .ok (i, _) => some i
  | .error _ => none

end Sys2Proof
end

