-- ==== Sys2Proof/Machine/State.lean ====
section
/-! DEFINITION. The state of the block (10_state.md R20), its surroundings as plain data, and reset (R43). -/

namespace Sys2Proof.Machine

/-- BusTransaction's `readings[0..2]`, one byte per axis (R27). -/
structure Readings where
  x : Byte
  y : Byte
  z : Byte
  deriving DecidableEq, Repr

/-- BusTransaction (R21 to R27). -/
structure Txn where
  direction   : Direction
  busy        : Bool
  step        : StepNo
  register    : Byte
  writeValue  : Byte
  currentAxis : Axis
  readings    : Readings
  deriving DecidableEq, Repr

/-- The bus interrupt enables `ien.*` (R30). -/
structure Enables where
  evt : Bool
  tx  : Bool
  rx  : Bool
  deriving DecidableEq, Repr

/-- The bus controller mirror `bus.*` (R31, R32). -/
structure BusLatch where
  ack   : Bool
  flags : FlagVec
  data  : Byte
  pend  : Bool
  deriving DecidableEq, Repr

/-- TransmitQueue (R34). `slots` lists the ring's slots by index in the canonical form of `cellsWf`: an index
that is not listed holds the descriptor `noDesc`. -/
structure Queue where
  head  : Nat
  tail  : Nat
  slots : List (Nat × Desc)
  deriving DecidableEq, Repr

/-- The accelerator fields `dma.*` (R38). -/
structure Dma where
  src    : Ref
  len    : Len
  active : Bool
  tc     : Bool
  deriving DecidableEq, Repr

/-- The output actions, the whole alphabet of R12. -/
inductive Action where
  | ctlStart
  | ctlStop
  | ctlNack
  | clrAddr
  | clrStatus
  | drWrite (b : Byte)
  | drRead (b : Byte)
  | dmaStart (ref : Ref) (len : Len)
  | dmaAck
  | txBytes (bytes : List Byte)
  | writeComplete
  | readComplete (x y z : Byte)
  | txnFailed (d : Direction) (s : StepNo)
  | fatal (c : Cause)
  | busy (b : Bool)
  | prior (p : Level)
  deriving DecidableEq, Repr

/-- What the surroundings do next (log 1, 7, 9). -/
inductive Input where
  /-- A stimulus word (R90). -/
  | word (w : Word)
  /-- The halt loop has its turn: HALT_EMIT "at any moment, any number of times" (R179). -/
  | haltEmit
  /-- A caller stores a byte to its message memory (R61, R76). -/
  | store (a : Ref) (b : Byte)
  deriving DecidableEq, Repr

/-- One breach of the callers' contract (R76): a caller overwrote the byte `old` at `addr` while the pending message
number `message` covered it, the oldest pending message being number 0 (log 7). -/
structure Breach where
  message : Nat
  addr    : Ref
  old     : Byte
  deriving DecidableEq, Repr

/-- The model's OWN fields: not state of the block but parameters and surroundings of its step relation (R42).
`mem` is message memory in canonical form, `stale` the breaches of R76 of the messages still pending, `freeCount`
the supply of free values, `trace` the output trace of R12, oldest action first. -/
structure Env where
  cfg       : Config
  inputs    : List Input
  mem       : List Host.Cell
  stale     : List Breach
  freeCount : Nat
  trace     : List Action
  deriving DecidableEq, Repr

/-- The state of the block (R20) and its surroundings. `halt = none` is the spec's NONE (R41). -/
structure State where
  txn      : Txn
  ien      : Enables
  bus      : BusLatch
  q        : Queue
  dma      : Dma
  prioMask : Level
  halt     : Option Cause
  env      : Env
  deriving DecidableEq, Repr

/-- No fault stops this machine: the spec's only fault is the fatal halt (R214), and entering it is a next
state in which `halt` names the cause; a stalled bus is a stuck transaction, not a fault (R156). -/
inductive Fault where
  deriving DecidableEq, Repr

/-- Why there is no step. -/
inductive Refusal where
  /-- Raised by an arm of `exec` whose instruction has no meaning yet; safe. -/
  | notModelled (mnemonic : String)
  /-- Raised by `step` on a word that spells no stimulus, and by BUS_TIMEOUT when `HAS_TIMEOUT` is false: "a
  model refuses it by name" (R103, U6); safe. -/
  | invalidStimulus (why : DecodeError)
  /-- Raised by ENQUEUE with length 0: "the model refuses the stimulus" (R173, R268, U5); safe. -/
  | zeroLengthMessage
  deriving DecidableEq, Repr

/-- The reset state `S0` (R43, R250, R251). DESIGN CHOICE, unsafe (log 2): `txn.direction` = WRITE,
`txn.register`, `txn.writeValue`, `txn.readings`, `bus.ack`, every slot, `dma.src` and `dma.len` = 0, which the
spec leaves unspecified. `env` is the model's own: the defaults of R9, nothing listed, an empty trace. -/
def State.reset : State :=
  { txn := { direction := .write, busy := false, step := 0, register := 0, writeValue := 0,
             currentAxis := .x, readings := ⟨0, 0, 0⟩ },
    ien := ⟨false, false, false⟩,
    bus := { ack := false, flags := 0, data := 0, pend := false },
    q := { head := 0, tail := 0, slots := [] },
    dma := { src := 0, len := 0, active := false, tc := false },
    prioMask := 0,
    halt := none,
    env := { cfg := Config.default, inputs := [], mem := [], stale := [], freeCount := 0, trace := [] } }

end Sys2Proof.Machine
end

