-- ==== Sys2Proof/Machine/Flags.lean ====
section
/-! DEFINITION. The status flags of a presentation and the gate of the bus-event interrupt (R33, R142, R193). -/

namespace Sys2Proof.Machine

/-- The bit of `statusFlags` a flag stands at (R33; the positions are the spec's own choice, D3). -/
def flagBit : Flag → Nat
  | .sb => 0
  | .addr => 1
  | .btf => 2
  | .rxne => 6
  | .txe => 7

/-- A flag is observed when its bit is 1, whatever the other bits are (R33, R142). -/
def observed (fl : Flag) (f : FlagVec) : Bool := f.getLsbD (flagBit fl)

/-- `Gate(f)`: whether a presentation asserts the bus-event interrupt request (R193). -/
def gate (ien : Enables) (f : FlagVec) : Bool :=
  ien.evt && (observed .sb f || observed .addr f || observed .btf f
    || (ien.tx && observed .txe f) || (ien.rx && observed .rxne f))

end Sys2Proof.Machine
end

