-- ==== Sys2Proof/Machine/Operands.lean ====
section
/-! DEFINITION. The values the block assembles (R80): the address byte, the axis tables, the numbers of the
enumerations, the second-level decode of BUS_EVENT, and the arithmetic of ring and mask. -/

namespace Sys2Proof.Machine

/-- WRITE = 0, READ = 1 (R21). On the bus the same number is the direction bit `rw` (R66). -/
def directionBit : Direction → BitVec 1
  | .write => 0
  | .read => 1

/-- X = 0, Y = 1, Z = 2 (R26). -/
def axisIndex : Axis → Nat
  | .x => 0
  | .y => 1
  | .z => 2

/-- SEQUENCING = 1, PRECONDITION = 2 (R211). -/
def causeCode : Cause → Nat
  | .sequencing => 1
  | .precondition => 2

/-- `AddrByte(rw) = (PERIPH_ADDR << 1)[7:0] | rw` (R66). -/
def addrByte (cfg : Config) (rw : Direction) : Byte :=
  (cfg.periphAddr.zeroExtend 8 <<< 1) ||| (directionBit rw).zeroExtend 8

/-- `AXIS_REG[axis]` (R9, R64). -/
def axisReg (cfg : Config) : Axis → Byte
  | .x => cfg.axisX
  | .y => cfg.axisY
  | .z => cfg.axisZ

/-- The axis after this one, X to Y, Y to Z; Z is the last axis (R26, R80). -/
def nextAxis : Axis → Option Axis
  | .x => some .y
  | .y => some .z
  | .z => none

/-- `readings[axis]` (R27). -/
def Readings.get (r : Readings) : Axis → Byte
  | .x => r.x
  | .y => r.y
  | .z => r.z

/-- `readings[axis] <- b` (R27). -/
def Readings.set (r : Readings) (b : Byte) : Axis → Readings
  | .x => { r with x := b }
  | .y => { r with y := b }
  | .z => { r with z := b }

/-- `(DIAG_REF[c], DIAG_LEN[c])` (R9, R179). -/
def diagDesc (cfg : Config) : Cause → Desc
  | .sequencing => cfg.diagSequencing
  | .precondition => cfg.diagPrecondition

/-- The ten steps of the two sequences, by their labels (R23). -/
inductive StepLabel where
  | w1
  | w2
  | w3
  | w4
  | rd1
  | rd2
  | rd3
  | rd4
  | rd5
  | rd6
  deriving DecidableEq, Repr

/-- The second-level decode of BUS_EVENT: the step selected by `(txn.direction, txn.step)`; every other pair is
undefined (R23, R104, R141). -/
def stepAt (dir : Direction) (step : StepNo) : Option StepLabel :=
  match dir, step.toNat with
  | .write, 0 => some .w1
  | .write, 1 => some .w2
  | .write, 2 => some .w3
  | .write, 3 => some .w4
  | .read, 0 => some .rd1
  | .read, 1 => some .rd2
  | .read, 2 => some .rd3
  | .read, 3 => some .rd4
  | .read, 4 => some .rd5
  | .read, 5 => some .rd6
  | _, _ => none

/-- The flag each step awaits (R23). -/
def awaited : StepLabel → Flag
  | .w1 | .rd1 | .rd4 => .sb
  | .w2 | .rd2 | .rd5 => .addr
  | .w3 => .txe
  | .w4 | .rd3 => .btf
  | .rd6 => .rxne

/-- `QSLOTS = QCAP + 1`, the modulus of the ring indices (R9, R34). -/
def qslots (cfg : Config) : Nat := cfg.qcap + 1

/-- `(i + 1) mod QSLOTS` (R34, R80). -/
def ringNext (cfg : Config) (i : Nat) : Nat := (i + 1) % qslots cfg

/-- `max(prioMask, level)`, unsigned: a raise never lowers the mask (R80, R190). -/
def raisedMask (mask level : Level) : Level := if mask < level then level else mask

end Sys2Proof.Machine
end

