-- ==== Sys2Proof/Machine/Ops.lean ====
section
/-! DEFINITION. The named operations every stimulus is written over: the sparse cells that hold message memory
and the ring, the field updates, `emit`, `raise Fatal`, the critical section, `Acquire`, `Release`, `Idle`,
`StartNext` and `MemRead`. -/

namespace Sys2Proof.Machine

/-! ### Sparse cells in canonical form -/

/-- What an address of message memory that is not listed reads as: 0x00. DESIGN CHOICE, unsafe (log 6). -/
def unlistedByte : Byte := 0

/-- What a ring slot that is not listed holds: (0, 0). DESIGN CHOICE, unsafe (log 2). -/
def noDesc : Desc := ⟨0, 0⟩

/-- The value at a key, `d` where the key is not listed. -/
def cellGet {α : Type} (d : α) : List (Nat × α) → Nat → α
  | [], _ => d
  | (k, v) :: rest, a => if a = k then v else cellGet d rest a

/-- Write a value at a key, keeping the canonical form: writing `d` removes the entry. -/
def cellPut {α : Type} [DecidableEq α] (d : α) (a : Nat) (v : α) : List (Nat × α) → List (Nat × α)
  | [] => if v = d then [] else [(a, v)]
  | (k, w) :: rest =>
    if a < k then (if v = d then (k, w) :: rest else (a, v) :: (k, w) :: rest)
    else if a = k then (if v = d then rest else (a, v) :: rest)
    else (k, w) :: cellPut d a v rest

/-- The canonical form: keys strictly rising, no entry equal to what an unlisted key reads as. -/
def cellsWf {α : Type} [DecidableEq α] (d : α) : List (Nat × α) → Bool
  | [] => true
  | (k, v) :: rest => decide (v ≠ d) && rest.all (fun c => decide (k < c.1)) && cellsWf d rest

/-- Message memory is in its canonical form, with addresses of 32 bits (R60). -/
def Memory.wf (m : List Host.Cell) : Bool :=
  cellsWf unlistedByte m && m.all (fun c => decide (c.1 < 2 ^ 32))

/-- The byte of message memory at an address (R61). -/
def memByte (m : List Host.Cell) (a : Ref) : Byte := cellGet unlistedByte m a.toNat

/-- Message memory after a caller's store; the block itself never writes it (R62). -/
def memStore (m : List Host.Cell) (a : Ref) (b : Byte) : List Host.Cell := cellPut unlistedByte a.toNat b m

/-- `MemRead(addr, n)`: the bytes at `addr .. addr+n-1`, lowest address first, modulo 2^32 (R61, R67). -/
def memRead (m : List Host.Cell) (addr : Ref) (n : Nat) : List Byte :=
  (List.range n).map fun k => memByte m (addr + BitVec.ofNat 32 k)

/-! ### Field updates -/

/-- `emit A` (R11, R12). -/
def State.emit (s : State) (a : Action) : State := { s with env := { s.env with trace := s.env.trace ++ [a] } }

/-- `txn.step <- k` (R11). -/
def State.setStep (s : State) (k : StepNo) : State := { s with txn := { s.txn with step := k } }

/-- `prioMask <- p` (R40). -/
def State.setMask (s : State) (p : Level) : State := { s with prioMask := p }

/-- `ien.tx <- b` (R30). -/
def State.setTx (s : State) (b : Bool) : State := { s with ien := { s.ien with tx := b } }

/-- `ien.rx <- b` (R30). -/
def State.setRx (s : State) (b : Bool) : State := { s with ien := { s.ien with rx := b } }

/-- `bus.ack <- b` (R31). -/
def State.setAck (s : State) (b : Bool) : State := { s with bus := { s.bus with ack := b } }

/-- `bus.pend <- b` (R32). -/
def State.setPend (s : State) (b : Bool) : State := { s with bus := { s.bus with pend := b } }

/-- The BUS_EVENT latch: `bus.flags`, `bus.data`, and `bus.pend <- 1` (R140). -/
def State.latch (s : State) (f : FlagVec) (d : Byte) : State :=
  { s with bus := { s.bus with flags := f, data := d, pend := true } }

/-- `txn.readings[txn.currentAxis] <- d` (R153). -/
def State.storeReading (s : State) (d : Byte) : State :=
  { s with txn := { s.txn with readings := s.txn.readings.set d s.txn.currentAxis } }

/-- `txn.currentAxis <- a ; txn.register <- AXIS_REG[a]` (R153). -/
def State.selectAxis (s : State) (a : Axis) : State :=
  { s with txn := { s.txn with currentAxis := a, register := axisReg s.env.cfg a } }

/-- Take the first input (log 1). -/
def State.setInputs (s : State) (l : List Input) : State := { s with env := { s.env with inputs := l } }

/-- Use up `n` free values (log 7, 8). -/
def State.useFree (s : State) (n : Nat) : State :=
  { s with env := { s.env with freeCount := s.env.freeCount + n } }

/-! ### The fatal halt -/

/-- `raise Fatal(c)`: `halt <- c`, `emit FATAL(c)`; nothing is saved and every other field keeps its value
(R214). The caller abandons the rest of its command or handler. There is no return from it (R215). -/
def raiseFatal (c : Cause) (s : State) : State := State.emit { s with halt := some c } (.fatal c)

/-- The commands and events that are ignored in the halted state: no change, no output, no delivery (R120,
R215). -/
def unlessHalted (s : State) (body : State → State) : State := if s.halt.isSome then s else body s

/-! ### The critical section -/

/-- A section of the block's own: raise the mask to at least `level`, run, restore the level read before the
raise on every path (R190, R195). -/
def inSection (level : Level) (body : State → State) (s : State) : State :=
  (body (s.setMask (raisedMask s.prioMask level))).setMask s.prioMask

/-! ### Acquire and release -/

/-- The assignments of `Acquire(d)` inside its section (R121). -/
def acquireBody (d : Direction) (s : State) : State :=
  State.emit
    { s with
      txn := { s.txn with direction := d, step := 0, currentAxis := .x, busy := true }
      bus := { s.bus with flags := 0, data := 0, pend := false }
      ien := { evt := true, tx := decide (d = .write), rx := false } }
    .clrStatus

/-- `Acquire(d)`, with bus-event interrupts masked at `P_BUS` (R121, R195). The caller has tested
`txn.busy = 0`. -/
def acquire (d : Direction) (s : State) : State := inSection s.env.cfg.pBus (acquireBody d) s

/-- `Release()` (R143). -/
def release (s : State) : State :=
  { s with txn := { s.txn with busy := false }, ien := { evt := false, tx := false, rx := false } }

/-! ### The transmit queue and the accelerator -/

/-- `Idle()`: not transferring and no unacknowledged completion pending (R171). -/
def idle (s : State) : Bool := !s.dma.active && !s.dma.tc

/-- `Empty` (R35). -/
def queueEmpty (s : State) : Bool := decide (s.q.head = s.q.tail)

/-- `Full`: advancing `tail` would equal `head` (R35). -/
def queueFull (s : State) : Bool := decide (ringNext s.env.cfg s.q.tail = s.q.head)

/-- `Len = (q.tail - q.head) mod QSLOTS`, not negative (R35, R80). -/
def queueLen (s : State) : Nat :=
  (s.q.tail + (qslots s.env.cfg - s.q.head % qslots s.env.cfg)) % qslots s.env.cfg

/-- `q.slot[i]` (R34). -/
def slotAt (s : State) (i : Nat) : Desc := cellGet noDesc s.q.slots i

/-- The queued descriptors, oldest first (R34, R35). -/
def queued (s : State) : List Desc :=
  (List.range (queueLen s)).map fun k => slotAt s ((s.q.head + k) % qslots s.env.cfg)

/-- `q.slot[q.tail] <- (ref, len) ; q.tail <- (q.tail + 1) mod QSLOTS` (R173). -/
def appendDesc (d : Desc) (s : State) : State :=
  { s with q := { s.q with slots := cellPut noDesc s.q.tail d s.q.slots, tail := ringNext s.env.cfg s.q.tail } }

/-- `StartNext()`: load the oldest descriptor into the accelerator and start it (R172). -/
def startNext (s : State) : State :=
  State.emit
    { s with
      q := { s.q with head := ringNext s.env.cfg s.q.head }
      dma := { s.dma with src := (slotAt s s.q.head).ref, len := (slotAt s s.q.head).len, active := true } }
    (.dmaStart (slotAt s s.q.head).ref (slotAt s s.q.head).len)

/-! ### The callers' memory contract -/

/-- Whether a message covers an address, addresses modulo 2^32 (R61, R76). -/
def covers (a : Ref) (d : Desc) : Bool := decide ((a - d.ref).toNat < d.len.toNat)

/-- The messages between their ENQUEUE and their XFER_DONE: the one in flight and the queued ones (R35, R76). -/
def pending (s : State) : List Desc :=
  if s.dma.active then ⟨s.dma.src, s.dma.len⟩ :: queued s else queued s

/-- The breaches a changing store makes: one for each pending message that covers the address (R76). -/
def breachesAt (a : Ref) (old : Byte) (msgs : List Desc) : List Breach :=
  ((List.range msgs.length).filter fun k => msgs[k]?.any (covers a)).map fun k => ⟨k, a, old⟩

/-- A caller stores a byte. Where the byte changes, the contract of R76 is broken for each pending message that
covers it, and the old byte is remembered for that message (U4, log 7). -/
def callerStore (a : Ref) (b : Byte) (s : State) : State :=
  let old := memByte s.env.mem a
  { s with env := { s.env with
      mem := memStore s.env.mem a b
      stale := if old = b then s.env.stale else s.env.stale ++ breachesAt a old (pending s) } }

/-- The old bytes of an address, of the message in flight: message number 0. -/
def staleBytes (s : State) (a : Ref) : List Byte :=
  (s.env.stale.filter fun c => decide (c.message = 0 ∧ c.addr = a)).map Breach.old

/-- The byte the accelerator sends from an address: the byte there (R174), or, where the contract is broken for
the message in flight, the old or the new one, a free value (R76, U4). -/
def sentByte (s : State) (a : Ref) (n : Nat) : Byte :=
  match staleBytes s a with
  | [] => memByte s.env.mem a
  | old :: olds =>
    (memByte s.env.mem a :: old :: olds).getD (Config.freeStaleByte n % (olds.length + 2)) (memByte s.env.mem a)

/-- The bytes of the transfer in flight: `MemRead(dma.src, dma.len)` when the contract was kept for its message
(R174, R76). -/
def sentBytes (s : State) : List Byte :=
  (List.range s.dma.len.toNat).map fun k =>
    sentByte s (s.dma.src + BitVec.ofNat 32 k) (s.env.freeCount + k)

/-- A breach once message number 0 is sent: its own are over, every other message is one nearer. -/
def shiftBreach (c : Breach) : Option Breach :=
  match c.message with
  | 0 => none
  | k + 1 => some { c with message := k }

/-- After a transfer: the breaches of its message are over; if it had any, it used up as many free values as it has
bytes (log 7). -/
def dropStale (s : State) : State :=
  { s with env := { s.env with
      freeCount :=
        if s.env.stale.any fun c => decide (c.message = 0) then s.env.freeCount + s.dma.len.toNat
        else s.env.freeCount
      stale := s.env.stale.filterMap shiftBreach } }

end Sys2Proof.Machine
end

