-- ==== Sys2Proof/Machine/Steps.lean ====
section
/-! DEFINITION. The ten steps of the two sequences, one definition each, and the handler that selects one
(41_bus_event_steps.md). `f` is the presentation's flags and `d` its byte. -/

namespace Sys2Proof.Machine

/-- The tie-break rule: a step runs only when its awaited flag is observed; any other presentation is a no-op
(R142). -/
def onFlag (fl : Flag) (f : FlagVec) (body : State → State) (s : State) : State :=
  if observed fl f then body s else s

/-- W1: transmit the peripheral address in write direction (R144). -/
def stepW1 (f : FlagVec) (s : State) : State :=
  onFlag .sb f (fun s => (s.emit (.drWrite (addrByte s.env.cfg .write))).setStep 1) s

/-- W2: clear the address-ack status, transmit the register number (R145). -/
def stepW2 (f : FlagVec) (s : State) : State :=
  onFlag .addr f (fun s => ((s.emit .clrAddr).emit (.drWrite s.txn.register)).setStep 2) s

/-- W3: transmit the value, disable the "more data" source (R146). -/
def stepW3 (f : FlagVec) (s : State) : State :=
  onFlag .txe f (fun s => ((s.emit (.drWrite s.txn.writeValue)).setTx false).setStep 3) s

/-- W4: STOP, release, signal write-complete (R147). -/
def stepW4 (f : FlagVec) (s : State) : State :=
  onFlag .btf f (fun s => ((release (s.emit .ctlStop)).setStep 4).emit .writeComplete) s

/-- RD1: transmit the peripheral address in write direction (R148). -/
def stepRd1 (f : FlagVec) (s : State) : State :=
  onFlag .sb f (fun s => (s.emit (.drWrite (addrByte s.env.cfg .write))).setStep 1) s

/-- RD2: transmit the axis register address (R149; the `CLR_ADDR` is the spec's decision D7). -/
def stepRd2 (f : FlagVec) (s : State) : State :=
  onFlag .addr f
    (fun s => ((s.emit .clrAddr).emit (.drWrite (axisReg s.env.cfg s.txn.currentAxis))).setStep 2) s

/-- RD3: a repeated START, no STOP (R150). -/
def stepRd3 (f : FlagVec) (s : State) : State :=
  onFlag .btf f (fun s => (s.emit .ctlStart).setStep 3) s

/-- RD4: transmit the peripheral address in read direction, arm NACK (R151; the byte's bit 0 is the spec's
decision D8). -/
def stepRd4 (f : FlagVec) (s : State) : State :=
  onFlag .sb f
    (fun s => (((s.emit (.drWrite (addrByte s.env.cfg .read))).setAck false).emit .ctlNack).setStep 4) s

/-- RD5: clear the address-ack status, arm the "byte received" source, STOP on the last axis (R152). -/
def stepRd5 (f : FlagVec) (s : State) : State :=
  onFlag .addr f
    (fun s =>
      let armed := (s.emit .clrAddr).setRx true
      (if s.txn.currentAxis = .z then armed.emit .ctlStop else armed).setStep 5) s

/-- RD6: store the byte; loop to RD1 on the next axis, or release and signal read-complete (R153). -/
def stepRd6 (f : FlagVec) (d : Byte) (s : State) : State :=
  onFlag .rxne f
    (fun s =>
      let stored := ((s.emit (.drRead d)).storeReading d).setRx false
      match nextAxis s.txn.currentAxis with
      | some a => ((stored.selectAxis a).emit .ctlStart).setStep 0
      | none =>
        ((release stored).setStep 6).emit
          (.readComplete stored.txn.readings.x stored.txn.readings.y stored.txn.readings.z)) s

/-- `OnBusEvent(f, d)`: exactly one step, selected by `(txn.direction, txn.step)` (R141); an undefined pair is
fatal (R154), and so is `txn.busy = 0` (R155). -/
def onBusEvent (f : FlagVec) (d : Byte) (s : State) : State :=
  if s.txn.busy then
    match stepAt s.txn.direction s.txn.step with
    | some .w1 => stepW1 f s
    | some .w2 => stepW2 f s
    | some .w3 => stepW3 f s
    | some .w4 => stepW4 f s
    | some .rd1 => stepRd1 f s
    | some .rd2 => stepRd2 f s
    | some .rd3 => stepRd3 f s
    | some .rd4 => stepRd4 f s
    | some .rd5 => stepRd5 f s
    | some .rd6 => stepRd6 f d s
    | none => raiseFatal .sequencing s
  else raiseFatal .sequencing s

end Sys2Proof.Machine
end

