-- ==== Sys2Proof/Machine/Delivery.lean ====
section
/-! DEFINITION. Interrupt requests, the completion handler, and `Deliver()` (43_critical_section.md R194;
42_transmit.md R175). Entering a handler saves nothing and changes nothing but `bus.pend` (R224); a handler
returns by ending (R225). -/

namespace Sys2Proof.Machine

/-- `OnTransferComplete()`: acknowledge, then start the next message if there is one and the accelerator is
idle (R175). -/
def onTransferComplete (s : State) : State :=
  let acked := State.emit { s with dma := { s.dma with tc := false } } .dmaAck
  if !queueEmpty acked && idle acked then startNext acked else acked

/-- `busReq`: a latched presentation that passes the gate and is not masked (R194, R193). -/
def busReq (s : State) : Bool :=
  s.bus.pend && gate s.ien s.bus.flags && decide (s.prioMask < s.env.cfg.pBus)

/-- `xferReq`: an unacknowledged completion that is not masked (R194, R221). -/
def xferReq (s : State) : Bool := s.dma.tc && decide (s.prioMask < s.env.cfg.pXfer)

/-- The chosen bus request: `bus.pend <- 0 ; OnBusEvent(bus.flags, bus.data)` (R194). -/
def runBusHandler (s : State) : State := onBusEvent s.bus.flags s.bus.data (s.setPend false)

/-- Which handler one round of `Deliver()` runs. -/
inductive Chosen where
  | stop
  | bus
  | xfer
  | either
  deriving DecidableEq, Repr

/-- The choice of one round: in the halted state only the completion handler, whatever the mask (R179); else the
request with the larger level, at equal levels either (R194, R223). -/
def choose (s : State) : Chosen :=
  if s.halt.isSome then (if s.dma.tc then .xfer else .stop)
  else if busReq s then
    if xferReq s then
      if s.env.cfg.pXfer < s.env.cfg.pBus then .bus
      else if s.env.cfg.pBus < s.env.cfg.pXfer then .xfer
      else .either
    else .bus
  else if xferReq s then .xfer
  else .stop

/-- The rounds of `Deliver()`. At equal levels the order is a free value (U8, log 8). -/
def deliverRounds : Nat → State → State
  | 0, s => s
  | n + 1, s =>
    match choose s with
    | .stop => s
    | .bus => deliverRounds n (runBusHandler s)
    | .xfer => deliverRounds n (onTransferComplete s)
    | .either =>
      if Config.freeTieOrder s.env.freeCount then deliverRounds n (runBusHandler (s.useFree 1))
      else deliverRounds n (onTransferComplete (s.useFree 1))

/-- `Deliver()`: "The loop ends after at most two handler runs, because each run clears its own pending bit and
no handler sets the other's" (R194). -/
def deliver (s : State) : State := deliverRounds 2 s

end Sys2Proof.Machine
end

