-- ==== Sys2Proof/Machine/BusCommands.lean ====
section
/-! DEFINITION. The host commands of the Bus Transaction Engine (40_bus_commands.md) and the optional
BUS_TIMEOUT (41_bus_event_steps.md R157). -/

namespace Sys2Proof.Machine

/-- BEGIN_WRITE (R122). `raise Fatal` abandons the command, its `Deliver()` with it (R127, R214, log 10). -/
def beginWrite (register value : Byte) (s : State) : State :=
  unlessHalted s fun s =>
    if s.txn.busy then raiseFatal .precondition s
    else
      let owned := acquire .write s
      let recorded : State := { owned with txn := { owned.txn with register := register, writeValue := value } }
      deliver (recorded.emit .ctlStart)

/-- BEGIN_READ (R123). -/
def beginRead (s : State) : State :=
  unlessHalted s fun s =>
    if s.txn.busy then raiseFatal .precondition s
    else
      let owned := acquire .read s
      let selected : State := { owned with txn := { owned.txn with register := axisReg s.env.cfg .x } }
      deliver (selected.emit .ctlStart)

/-- The abort of BUS_TIMEOUT: STOP, release, report; `txn.step` stays (R157). -/
def busTimeout (s : State) : State :=
  unlessHalted s fun s =>
    if s.txn.busy then
      deliver ((release (s.emit .ctlStop)).emit (.txnFailed s.txn.direction s.txn.step))
    else s

def execBeginWrite (register value : Byte) (s : State) : Host.Outcome State Fault Refusal :=
  .next (beginWrite register value s)

def execBeginRead (s : State) : Host.Outcome State Fault Refusal := .next (beginRead s)

/-- TICK: the semantics of BEGIN_READ (R124). -/
def execTick (s : State) : Host.Outcome State Fault Refusal := .next (beginRead s)

/-- POLL_BUSY (R125). -/
def execPollBusy (s : State) : Host.Outcome State Fault Refusal :=
  .next (unlessHalted s fun s => deliver (s.emit (.busy s.txn.busy)))

/-- BUS_TIMEOUT; without `HAS_TIMEOUT` it is not a stimulus and is refused by name (R157, R101, R103). -/
def execBusTimeout (s : State) : Host.Outcome State Fault Refusal :=
  if s.env.cfg.hasTimeout then .next (busTimeout s) else .refused (.invalidStimulus .noTimeout)

end Sys2Proof.Machine
end

