-- ==== Sys2Proof/Machine/BusEvents.lean ====
section
/-! DEFINITION. BUS_EVENT, its second-level rows and its pseudo-stimuli (41_bus_event_steps.md R140; 30_encoding.md
R104, R107). A row BUS_EVENT.x is the word of BUS_EVENT: the presentation is latched, and the step that runs
at its delivery is selected by the state in `onBusEvent`, so each row's own step runs exactly in the states its
`dispatch` names (log 12). -/

namespace Sys2Proof.Machine

/-- BUS_EVENT: latch the presentation, then `Deliver()`; ignored when halted (R140). -/
def present (f : FlagVec) (d : Byte) (s : State) : State :=
  unlessHalted s fun s => deliver (s.latch f d)

def execBusEvent (f : FlagVec) (d : Byte) (s : State) : Host.Outcome State Fault Refusal := .next (present f d s)

/-- At (WRITE, 0) the delivery runs `stepW1` (R144). -/
def execBusEventW1 (f : FlagVec) (d : Byte) (s : State) : Host.Outcome State Fault Refusal := .next (present f d s)

/-- At (WRITE, 1) the delivery runs `stepW2` (R145). -/
def execBusEventW2 (f : FlagVec) (d : Byte) (s : State) : Host.Outcome State Fault Refusal := .next (present f d s)

/-- At (WRITE, 2) the delivery runs `stepW3` (R146). -/
def execBusEventW3 (f : FlagVec) (d : Byte) (s : State) : Host.Outcome State Fault Refusal := .next (present f d s)

/-- At (WRITE, 3) the delivery runs `stepW4` (R147). -/
def execBusEventW4 (f : FlagVec) (d : Byte) (s : State) : Host.Outcome State Fault Refusal := .next (present f d s)

/-- At (READ, 0) the delivery runs `stepRd1` (R148). -/
def execBusEventRd1 (f : FlagVec) (d : Byte) (s : State) : Host.Outcome State Fault Refusal := .next (present f d s)

/-- At (READ, 1) the delivery runs `stepRd2` (R149). -/
def execBusEventRd2 (f : FlagVec) (d : Byte) (s : State) : Host.Outcome State Fault Refusal := .next (present f d s)

/-- At (READ, 2) the delivery runs `stepRd3` (R150). -/
def execBusEventRd3 (f : FlagVec) (d : Byte) (s : State) : Host.Outcome State Fault Refusal := .next (present f d s)

/-- At (READ, 3) the delivery runs `stepRd4` (R151). -/
def execBusEventRd4 (f : FlagVec) (d : Byte) (s : State) : Host.Outcome State Fault Refusal := .next (present f d s)

/-- At (READ, 4) the delivery runs `stepRd5` (R152). -/
def execBusEventRd5 (f : FlagVec) (d : Byte) (s : State) : Host.Outcome State Fault Refusal := .next (present f d s)

/-- At (READ, 5) the delivery runs `stepRd6` (R153). -/
def execBusEventRd6 (f : FlagVec) (d : Byte) (s : State) : Host.Outcome State Fault Refusal := .next (present f d s)

/-- At an undefined pair, or with `txn.busy = 0`, the delivery is fatal (R154, R155). -/
def execBusEventUndefined (f : FlagVec) (d : Byte) (s : State) : Host.Outcome State Fault Refusal :=
  .next (present f d s)

/-- EV_SB = `BUS_EVENT 0x01` (R107). -/
def execEvSb (s : State) : Host.Outcome State Fault Refusal := .next (present 0x01 0 s)

/-- EV_ADDR = `BUS_EVENT 0x02` (R107). -/
def execEvAddr (s : State) : Host.Outcome State Fault Refusal := .next (present 0x02 0 s)

/-- EV_BTF = `BUS_EVENT 0x04` (R107). -/
def execEvBtf (s : State) : Host.Outcome State Fault Refusal := .next (present 0x04 0 s)

/-- EV_TXE = `BUS_EVENT 0x80` (R107). -/
def execEvTxe (s : State) : Host.Outcome State Fault Refusal := .next (present 0x80 0 s)

/-- EV_RXNE d = `BUS_EVENT 0x40, d` (R107). -/
def execEvRxne (d : Byte) (s : State) : Host.Outcome State Fault Refusal := .next (present 0x40 d s)

end Sys2Proof.Machine
end

