-- ==== Sys2Proof/Machine/CriticalSection.lean ====
section
/-! DEFINITION. CS_ENTER, CS_EXIT and CS_BEGIN (43_critical_section.md). -/

namespace Sys2Proof.Machine

/-- CS_ENTER: answer the mask before the raise, raise it, `Deliver()` (R191). -/
def csEnter (level : Level) (s : State) : State :=
  unlessHalted s fun s => deliver ((s.emit (.prior s.prioMask)).setMask (raisedMask s.prioMask level))

def execCsEnter (level : Level) (s : State) : Host.Outcome State Fault Refusal := .next (csEnter level s)

/-- CS_BEGIN = `CS_ENTER P_CS` (R107). -/
def execCsBegin (s : State) : Host.Outcome State Fault Refusal := .next (csEnter s.env.cfg.pCs s)

/-- CS_EXIT: write the mask, `Deliver()`; the block does not check the level (R192). -/
def execCsExit (level : Level) (s : State) : Host.Outcome State Fault Refusal :=
  .next (unlessHalted s fun s => deliver (s.setMask level))

end Sys2Proof.Machine
end

