-- ==== Sys2Proof/Machine/Transmit.lean ====
section
/-! DEFINITION. ENQUEUE, XFER_DONE and the halt loop's HALT_EMIT (42_transmit.md). -/

namespace Sys2Proof.Machine

/-- The body of ENQUEUE inside its section at `P_CS`: dropped when full; else appended, and started when the
accelerator is idle (R173). -/
def enqueueBody (d : Desc) (s : State) : State :=
  if queueFull s then s
  else
    let appended := appendDesc d s
    if idle appended then startNext appended else appended

/-- ENQUEUE of a message that is not empty (R173); it runs in the halted state too (R179). -/
def enqueue (d : Desc) (s : State) : State := deliver (inSection s.env.cfg.pCs (enqueueBody d) s)

/-- ENQUEUE; length 0 is refused (R173, R268). -/
def execEnqueue (messageRef : Ref) (length : Len) (s : State) : Host.Outcome State Fault Refusal :=
  if length = 0 then .refused .zeroLengthMessage else .next (enqueue ⟨messageRef, length⟩ s)

/-- XFER_DONE: no effect when nothing is in flight; else the bytes leave, `dma.active <- 0`, `dma.tc <- 1`, and
`Deliver()` (R174); it runs in the halted state too (R179). -/
def xferDone (s : State) : State :=
  if s.dma.active then
    let sent := s.emit (.txBytes (sentBytes s))
    deliver { dropStale sent with dma := { s.dma with active := false, tc := true } }
  else s

def execXferDone (s : State) : Host.Outcome State Fault Refusal := .next (xferDone s)

/-- HALT_EMIT: `ENQUEUE(DIAG_REF[halt], DIAG_LEN[halt])`, a step of the halted state only (R179). Its turn when
not halted does nothing (log 9). -/
def haltEmit (s : State) : Host.Outcome State Fault Refusal :=
  match s.halt with
  | none => .next s
  | some c => execEnqueue (diagDesc s.env.cfg c).ref (diagDesc s.env.cfg c).len s

end Sys2Proof.Machine
end

