-- ==== Sys2Proof/Machine/Dispatch.lean ====
section
/-! DEFINITION. The dispatch: one arm per constructor of Instr. -/

namespace Sys2Proof.Machine

def exec (i : Instr) (s : State) : Host.Outcome State Fault Refusal :=
  match i with
  | .beginWrite r v => Sys2Proof.Machine.execBeginWrite r v s
  | .beginRead => Sys2Proof.Machine.execBeginRead s
  | .tick => Sys2Proof.Machine.execTick s
  | .pollBusy => Sys2Proof.Machine.execPollBusy s
  | .enqueue r l => Sys2Proof.Machine.execEnqueue r l s
  | .csEnter l => Sys2Proof.Machine.execCsEnter l s
  | .csExit l => Sys2Proof.Machine.execCsExit l s
  | .busEvent f d => Sys2Proof.Machine.execBusEvent f d s
  | .busEventW1 f d => Sys2Proof.Machine.execBusEventW1 f d s
  | .busEventW2 f d => Sys2Proof.Machine.execBusEventW2 f d s
  | .busEventW3 f d => Sys2Proof.Machine.execBusEventW3 f d s
  | .busEventW4 f d => Sys2Proof.Machine.execBusEventW4 f d s
  | .busEventRd1 f d => Sys2Proof.Machine.execBusEventRd1 f d s
  | .busEventRd2 f d => Sys2Proof.Machine.execBusEventRd2 f d s
  | .busEventRd3 f d => Sys2Proof.Machine.execBusEventRd3 f d s
  | .busEventRd4 f d => Sys2Proof.Machine.execBusEventRd4 f d s
  | .busEventRd5 f d => Sys2Proof.Machine.execBusEventRd5 f d s
  | .busEventRd6 f d => Sys2Proof.Machine.execBusEventRd6 f d s
  | .busEventUndefined f d => Sys2Proof.Machine.execBusEventUndefined f d s
  | .xferDone => Sys2Proof.Machine.execXferDone s
  | .busTimeout => Sys2Proof.Machine.execBusTimeout s
  | .evSb => Sys2Proof.Machine.execEvSb s
  | .evAddr => Sys2Proof.Machine.execEvAddr s
  | .evBtf => Sys2Proof.Machine.execEvBtf s
  | .evTxe => Sys2Proof.Machine.execEvTxe s
  | .evRxne d => Sys2Proof.Machine.execEvRxne d s
  | .csBegin => Sys2Proof.Machine.execCsBegin s

end Sys2Proof.Machine
end

