-- ==== Sys2Proof/Machine/Step.lean ====
section
/-! DEFINITION. One step: the next input of the surroundings, as one atomic step (R71, R74; log 1). -/

namespace Sys2Proof.Machine

/-- The block does nothing until its next stimulus (R251); a word that spells no stimulus is refused by name
(R103); a stimulus runs as `exec` says. The halt loop's turns and the callers' stores are R179 and R76. -/
def step (s : State) : Host.Outcome State Fault Refusal :=
  match s.env.inputs with
  | [] => .next s
  | .word w :: rest =>
    match decode s.env.cfg w with
    | .ok i => exec i (s.setInputs rest)
    | .error e => .refused (.invalidStimulus e)
  | .haltEmit :: rest => haltEmit (s.setInputs rest)
  | .store a b :: rest => .next (callerStore a b (s.setInputs rest))

/-- `s` with a table row's word as its next input. The row BUS_TIMEOUT exists only when `HAS_TIMEOUT` is true
(spec/opcode_table.json), so its word takes that parameter with it (log 5). -/
def State.withFetchWord (s : State) (nbits w : Nat) : State :=
  { s with env := { s.env with
      inputs := .word (tableWord nbits w) :: s.env.inputs
      cfg := { s.env.cfg with
        hasTimeout := s.env.cfg.hasTimeout || decide (opField (tableWord nbits w) = 0x82) } } }

end Sys2Proof.Machine
end

