-- ==== Sys2Proof/Machine/Text.lean ====
section
/-! DEFINITION. The textual form of a stimulus: one a line, operands in the document's argument order, numbers in C
notation, `#` starts a comment (30_encoding.md R106, R107). What the spec leaves open of it is log 20. -/

namespace Sys2Proof.Machine

/-- Why a line spells no stimulus. -/
inductive TextError where
  | unknownMnemonic
  | badNumber
  | outOfRange
  | wrongOperands
  deriving DecidableEq, Repr

/-- The line without its comment (R106). -/
def dropComment : List Char → List Char
  | [] => []
  | c :: rest => if c = '#' then [] else c :: dropComment rest

/-- A space or a tab. -/
def isBlank (c : Char) : Bool := c == ' ' || c == '\t'

/-- The text without blanks at either end. -/
def trimmed (cs : List Char) : List Char := ((cs.dropWhile isBlank).reverse.dropWhile isBlank).reverse

/-- The pieces between commas. -/
def commaParts : List Char → List (List Char)
  | [] => [[]]
  | c :: rest =>
    if c = ',' then [] :: commaParts rest
    else
      match commaParts rest with
      | [] => [[c]]
      | p :: ps => (c :: p) :: ps

/-- The value of a digit, letters in either case. -/
def digitVal (c : Char) : Option Nat :=
  if '0' ≤ c ∧ c ≤ '9' then some (c.toNat - 48)
  else if 'a' ≤ c ∧ c ≤ 'f' then some (c.toNat - 87)
  else if 'A' ≤ c ∧ c ≤ 'F' then some (c.toNat - 55)
  else none

/-- The number the digits spell in a base, after the value `acc` of the digits before them. -/
def digitsVal (base : Nat) (acc : Nat) : List Char → Option Nat
  | [] => some acc
  | c :: rest =>
    match digitVal c with
    | some n => if n < base then digitsVal base (acc * base + n) rest else none
    | none => none

/-- A number in C notation: `0x..`, `0b..` or decimal (R106). -/
def numberVal : List Char → Option Nat
  | [] => none
  | ['0', 'x'] => none
  | ['0', 'b'] => none
  | '0' :: 'x' :: digits => digitsVal 16 0 digits
  | '0' :: 'b' :: digits => digitsVal 2 0 digits
  | digits => digitsVal 10 0 digits

/-- An operand of `w` bits, unsigned (R102). -/
def operandVal (w : Nat) (cs : List Char) : Except TextError (BitVec w) :=
  match numberVal cs with
  | none => .error .badNumber
  | some n => if n < 2 ^ w then .ok (BitVec.ofNat w n) else .error .outOfRange

/-- A stimulus without operands. -/
def noOperand (i : Instr) : List (List Char) → Except TextError Instr
  | [] => .ok i
  | _ :: _ => .error .wrongOperands

/-- A stimulus with one operand. -/
def oneOperand (w : Nat) (mk : BitVec w → Instr) : List (List Char) → Except TextError Instr
  | [p] =>
    match operandVal w p with
    | .ok v => .ok (mk v)
    | .error e => .error e
  | _ => .error .wrongOperands

/-- A stimulus with two operands. -/
def twoOperands (w1 w2 : Nat) (mk : BitVec w1 → BitVec w2 → Instr) : List (List Char) → Except TextError Instr
  | [p, q] =>
    match operandVal w1 p, operandVal w2 q with
    | .ok v, .ok u => .ok (mk v u)
    | .error e, _ => .error e
    | _, .error e => .error e
  | _ => .error .wrongOperands

/-- `BUS_EVENT statusFlags [, rxData]`: `rxData` defaults to 0 (R106). -/
def busEventOperands : List (List Char) → Except TextError Instr
  | [p] => oneOperand 8 (fun f => .busEvent f 0) [p]
  | ps => twoOperands 8 8 .busEvent ps

/-- The spellings of R106 and R107. -/
def parseMnemonic (m : List Char) (ps : List (List Char)) : Except TextError Instr :=
  if m = "BEGIN_WRITE".toList then twoOperands 8 8 .beginWrite ps
  else if m = "BEGIN_READ".toList then noOperand .beginRead ps
  else if m = "POLL_BUSY".toList then noOperand .pollBusy ps
  else if m = "ENQUEUE".toList then twoOperands 32 16 .enqueue ps
  else if m = "CS_ENTER".toList then oneOperand 8 .csEnter ps
  else if m = "CS_EXIT".toList then oneOperand 8 .csExit ps
  else if m = "BUS_EVENT".toList then busEventOperands ps
  else if m = "XFER_DONE".toList then noOperand .xferDone ps
  else if m = "BUS_TIMEOUT".toList then noOperand .busTimeout ps
  else if m = "TICK".toList then noOperand .tick ps
  else if m = "EV_SB".toList then noOperand .evSb ps
  else if m = "EV_ADDR".toList then noOperand .evAddr ps
  else if m = "EV_BTF".toList then noOperand .evBtf ps
  else if m = "EV_TXE".toList then noOperand .evTxe ps
  else if m = "EV_RXNE".toList then oneOperand 8 .evRxne ps
  else if m = "CS_BEGIN".toList then noOperand .csBegin ps
  else .error .unknownMnemonic

/-- The stimulus a line spells (R106, R107). -/
def parseLine (line : List Char) : Except TextError Instr :=
  let text := trimmed (dropComment line)
  let mnemonic := text.takeWhile fun c => !isBlank c
  let operands := trimmed (text.dropWhile fun c => !isBlank c)
  parseMnemonic mnemonic (if operands.isEmpty then [] else (commaParts operands).map trimmed)

/-- A hexadecimal digit. -/
def hexDigit (n : Nat) : Char := if n < 10 then Char.ofNat (48 + n) else Char.ofNat (87 + n)

/-- `k` hexadecimal digits, the most significant first. -/
def hexDigits : Nat → Nat → List Char
  | 0, _ => []
  | k + 1, n => hexDigits k (n / 16) ++ [hexDigit (n % 16)]

/-- `0x` and the digits of an operand. -/
def hexNumber (k n : Nat) : List Char := '0' :: 'x' :: hexDigits k n

/-- The line of a stimulus with one operand. -/
def line1 (m : String) (p : List Char) : List Char := m.toList ++ ' ' :: p

/-- The line of a stimulus with two operands. -/
def line2 (m : String) (p q : List Char) : List Char := m.toList ++ ' ' :: (p ++ ',' :: ' ' :: q)

/-- The line of a stimulus (R106, R107). A second-level row has no spelling of its own: its line is BUS_EVENT's
(R104). -/
def renderLine : Instr → List Char
  | .beginWrite r v => line2 "BEGIN_WRITE" (hexNumber 2 r.toNat) (hexNumber 2 v.toNat)
  | .beginRead => "BEGIN_READ".toList
  | .tick => "TICK".toList
  | .pollBusy => "POLL_BUSY".toList
  | .enqueue r l => line2 "ENQUEUE" (hexNumber 8 r.toNat) (hexNumber 4 l.toNat)
  | .csEnter l => line1 "CS_ENTER" (hexNumber 2 l.toNat)
  | .csExit l => line1 "CS_EXIT" (hexNumber 2 l.toNat)
  | .busEvent f d | .busEventW1 f d | .busEventW2 f d | .busEventW3 f d | .busEventW4 f d
  | .busEventRd1 f d | .busEventRd2 f d | .busEventRd3 f d | .busEventRd4 f d | .busEventRd5 f d
  | .busEventRd6 f d | .busEventUndefined f d =>
    line2 "BUS_EVENT" (hexNumber 2 f.toNat) (hexNumber 2 d.toNat)
  | .xferDone => "XFER_DONE".toList
  | .busTimeout => "BUS_TIMEOUT".toList
  | .evSb => "EV_SB".toList
  | .evAddr => "EV_ADDR".toList
  | .evBtf => "EV_BTF".toList
  | .evTxe => "EV_TXE".toList
  | .evRxne d => line1 "EV_RXNE" (hexNumber 2 d.toNat)
  | .csBegin => "CS_BEGIN".toList

end Sys2Proof.Machine
end

