-- ==== Sys2Proof/Safety.lean ====
section
/-! DEFINITION. The terms claims are stated in: the two sides of the output trace, what a stimulus leaves alone,
runs, and the invariants of 10_state.md R44. -/

namespace Sys2Proof.Machine

/-! ### The output trace -/

/-- The actions of the transmit path; the others are the bus engine's and the answers to the host (R12). -/
def Action.isTransmit : Action → Bool
  | .dmaStart _ _ | .dmaAck | .txBytes _ => true
  | .ctlStart | .ctlStop | .ctlNack | .clrAddr | .clrStatus | .drWrite _ | .drRead _ | .writeComplete
  | .readComplete _ _ _ | .txnFailed _ _ | .fatal _ | .busy _ | .prior _ => false

/-- The transmit path's part of the output trace. -/
def transmitTrace (s : State) : List Action := s.env.trace.filter Action.isTransmit

/-- The rest of the output trace. The order between the two parts inside one delivery is not claimed (D34). -/
def engineTrace (s : State) : List Action := s.env.trace.filter fun a => !a.isTransmit

/-- The descriptor an action starts. -/
def startedDesc : Action → Option Desc
  | .dmaStart r l => some ⟨r, l⟩
  | _ => none

/-- The descriptors started so far, in order (R177). -/
def started (s : State) : List Desc := s.env.trace.filterMap startedDesc

/-- Where the transmit path stands between a `DMA_START` and the next (R176). -/
inductive Phase where
  | idle
  | active
  | done
  deriving DecidableEq, Repr

/-- One action of a trace in which every `DMA_START` is followed by one `TX_BYTES` and then one `DMA_ACK` before
the next `DMA_START`; any other order has no phase. -/
def nextPhase : Option Phase → Action → Option Phase
  | some .idle, .dmaStart _ _ => some .active
  | some .active, .txBytes _ => some .done
  | some .done, .dmaAck => some .idle
  | p, a => if a.isTransmit then none else p

/-- The phase after a trace (R176). -/
def tracePhase (tr : List Action) : Option Phase := tr.foldl nextPhase (some .idle)

/-- The phase the accelerator's fields say (R38, R39). -/
def dmaPhase (d : Dma) : Phase := if d.active then .active else if d.tc then .done else .idle

/-! ### What a stimulus leaves alone -/

/-- The parameters, the inputs, message memory and the breaches of its contract are as before. -/
def SameSurroundings (s t : State) : Prop :=
  t.env.cfg = s.env.cfg ∧ t.env.inputs = s.env.inputs ∧ t.env.mem = s.env.mem ∧ t.env.stale = s.env.stale

/-- The transmit path after a stimulus of the bus engine that emitted `out`: untouched, or, when a completion was
pending and not masked, as its handler leaves it (R194). -/
def TransmitServed (s t : State) (out : List Action) : Prop :=
  (xferReq s = false →
    t.q = s.q ∧ t.dma = s.dma ∧ t.env.trace = s.env.trace ++ out ∧ t.env.freeCount = s.env.freeCount) ∧
  (xferReq s = true →
    t.q = (onTransferComplete s).q ∧ t.dma = (onTransferComplete s).dma ∧
      transmitTrace t = transmitTrace (onTransferComplete s))

/-- `t` follows `s` by a stimulus of the bus engine: the engine's fields are the given ones, its output is `out`,
the mask and `halt` are as before, and the transmit path is only served. -/
def EngineMoves (s t : State) (txn : Txn) (ien : Enables) (bus : BusLatch) (out : List Action) : Prop :=
  t.txn = txn ∧ t.ien = ien ∧ t.bus = bus ∧ t.prioMask = s.prioMask ∧ t.halt = s.halt ∧
    engineTrace t = engineTrace s ++ out ∧ SameSurroundings s t ∧ TransmitServed s t out

/-- A completion will be handled by the next `Deliver()`: pending, and not masked or the block is halted (R179,
R194). -/
def willComplete (s : State) : Bool :=
  s.dma.tc && (s.halt.isSome || decide (s.prioMask < s.env.cfg.pXfer))

/-- No bus-event handler can run: the block is halted or no request is asserted (R194). -/
def NoBusHandler (s : State) : Prop := s.halt ≠ none ∨ busReq s = false

/-- The presentation a stimulus makes, if it is a BUS_EVENT under any of its spellings (R104, R107). -/
def presentation : Instr → Option (FlagVec × Byte)
  | .busEvent f d | .busEventW1 f d | .busEventW2 f d | .busEventW3 f d | .busEventW4 f d
  | .busEventRd1 f d | .busEventRd2 f d | .busEventRd3 f d | .busEventRd4 f d | .busEventRd5 f d
  | .busEventRd6 f d | .busEventUndefined f d => some (f, d)
  | .evSb => some (0x01, 0)
  | .evAddr => some (0x02, 0)
  | .evBtf => some (0x04, 0)
  | .evTxe => some (0x80, 0)
  | .evRxne d => some (0x40, d)
  | .beginWrite _ _ | .beginRead | .tick | .pollBusy | .enqueue _ _ | .csEnter _ | .csExit _ | .xferDone
  | .busTimeout | .csBegin => none

/-- The stimuli that start a transaction (R122, R123, R124). -/
def isBegin : Instr → Bool
  | .beginWrite _ _ | .beginRead | .tick => true
  | _ => false

/-- What a stimulus adds to the queue: the operand of an ENQUEUE that is not dropped (R173, R217). -/
def accepted (s : State) : Instr → List Desc
  | .enqueue r l => if queueFull s then [] else [⟨r, l⟩]
  | _ => []

/-! ### Runs -/

/-- The stimuli one after another, as long as each has a next state. -/
def runAll : List Instr → State → Host.Outcome State Fault Refusal
  | [], s => .next s
  | i :: rest, s =>
    match exec i s with
    | .next t => runAll rest t
    | .fault r => .fault r
    | .refused r => .refused r

/-- `t` is reached from `s` by steps. -/
inductive Reaches (s : State) : State → Prop where
  | refl : Reaches s s
  | step {t u : State} : Reaches s t → step t = .next u → Reaches s u

/-- A run is safe as long as no fatal halt was entered (R41, R215: "a claim about a run takes `halt = NONE` as a
premise"). -/
def Safe (s : State) : Prop := s.halt = none

/-! ### Invariants -/

/-- What holds in every state reachable from reset: R44 (i) to (vi) ((vii) holds by the type of `currentAxis`),
the register clause of R24, the index ranges of R34, no handler waiting that could run (R194), the canonical
forms of memory and ring, no sequencing halt (R212), and, of the model's own record, that a breach is one of a
pending message that covers its address (R76, log 7). -/
structure Invariants (s : State) : Prop where
  evtIsBusy    : s.ien.evt = s.txn.busy
  txWindow     : s.ien.tx = true → s.txn.busy = true ∧ s.txn.direction = .write ∧ s.txn.step.toNat ≤ 2
  rxWindow     : s.ien.rx = true → s.txn.busy = true ∧ s.txn.direction = .read ∧ s.txn.step.toNat = 5
  busyStep     : s.txn.busy = true →
                   (s.txn.direction = .write → s.txn.step.toNat ≤ 3) ∧
                   (s.txn.direction = .read → s.txn.step.toNat ≤ 5)
  idleEmpty    : s.halt = none → idle s = true → queueEmpty s = true
  oneTransfer  : ¬(s.dma.active = true ∧ s.dma.tc = true)
  readRegister : s.txn.busy = true → s.txn.direction = .read →
                   s.txn.register = axisReg s.env.cfg s.txn.currentAxis
  headInRing   : s.q.head < qslots s.env.cfg
  tailInRing   : s.q.tail < qslots s.env.cfg
  noneWaiting  : s.halt = none → busReq s = false ∧ xferReq s = false
  slotsWf      : cellsWf noDesc s.q.slots = true
  memoryWf     : Memory.wf s.env.mem = true
  noSequencing : s.halt ≠ some .sequencing
  breachPending : ∀ c ∈ s.env.stale, ∃ d, (pending s)[c.message]? = some d ∧ covers c.addr d = true

end Sys2Proof.Machine
end

