-- ==== Sys2Proof/Certificates/Slice0/Obligations.lean ====
section
/-! DEFINITION. The statements for the provers, in the order of spec/: encoding, one step, host commands, the
handler, the steps as stimuli, the transmit path, the critical section, whole-machine rules, invariants, whole
transactions. Each docstring names the rule or section it formalises, and the decision or log entry it rests on
where the spec or the model chose. -/

open Sys2Proof Sys2Proof.Machine

/-! ### Encoding (30_encoding.md) -/

/-- 30_encoding.md, section 6, R108 (D2): encoding then decoding a stimulus that exists gives the stimulus it
stands for, two different stimuli never share a word, and TICK has the word of BEGIN_READ. 20_memory.md, section
2, R68 (D22): the same from the head of a byte stream, the most significant byte first. -/
def Obligations.EncodedStimuliDecodeBack : Prop :=
  (∀ (cfg : Config) (i : Instr), i.wellFormed cfg = true → decode cfg (encode cfg i) = .ok (i.expand cfg)) ∧
  (∀ (cfg : Config) (i j : Instr), encode cfg i = encode cfg j → i.expand cfg = j.expand cfg) ∧
  (∀ cfg : Config, encode cfg .tick = encode cfg .beginRead) ∧
  (∀ (cfg : Config) (i : Instr) (rest : List Byte), i.wellFormed cfg = true →
    decodeBytes cfg (encodeBytes cfg i ++ rest) = .ok (i.expand cfg, rest))

/-- 30_encoding.md, sections 1 to 3, R91, R108 (D2): a word that decodes is, bit for bit, the word of the one
stimulus it decodes to, which exists and is spelled as itself. -/
def Obligations.DecodedWordsAreTheStimulusWord : Prop :=
  ∀ (cfg : Config) (w : Word) (i : Instr), decode cfg w = .ok i →
    encode cfg i = w ∧ i.wellFormed cfg = true ∧ i.expand cfg = i

/-- 30_encoding.md, sections 2 and 4, R91, R103 (D2): the match and mask of the nine rows, as spec/opcode_table.json
gives them, say which words spell a stimulus; BUS_TIMEOUT's row counts only with `HAS_TIMEOUT`. -/
def Obligations.WordsThatSpellStimuli : Prop :=
  ∀ (cfg : Config) (w : Word),
    (∃ i, decode cfg w = .ok i) ↔
      (w &&& 0xFF00FF00FFFFFFFF = 0x0100000000000000 ∨ w &&& 0xFFFFFFFFFFFFFFFF = 0x0200000000000000 ∨
       w &&& 0xFFFFFFFFFFFFFFFF = 0x0300000000000000 ∨ w &&& 0xFFFF000000000000 = 0x1000000000000000 ∨
       w &&& 0xFF00FFFFFFFFFFFF = 0x2000000000000000 ∨ w &&& 0xFF00FFFFFFFFFFFF = 0x2100000000000000 ∨
       w &&& 0xFF00FF00FFFFFFFF = 0x8000000000000000 ∨ w &&& 0xFFFFFFFFFFFFFFFF = 0x8100000000000000 ∨
       (cfg.hasTimeout = true ∧ w &&& 0xFFFFFFFFFFFFFFFF = 0x8200000000000000))

/-- 30_encoding.md, section 3, R102 (D2): every operand is the field of the word it stands in, unsigned, as it
stands: `register`, `level`, `statusFlags` are `W[55:48]`, `value`, `rxData` are `W[39:32]`, `length` is
`W[47:32]`, `messageRef` is `W[31:0]`. -/
def Obligations.OperandsAreTheirFields : Prop :=
  ∀ (cfg : Config) (w : Word),
    (∀ r v, decode cfg w = .ok (.beginWrite r v) →
      r.toNat = w.toNat / 2 ^ 48 % 2 ^ 8 ∧ v.toNat = w.toNat / 2 ^ 32 % 2 ^ 8) ∧
    (∀ f d, decode cfg w = .ok (.busEvent f d) →
      f.toNat = w.toNat / 2 ^ 48 % 2 ^ 8 ∧ d.toNat = w.toNat / 2 ^ 32 % 2 ^ 8) ∧
    (∀ r l, decode cfg w = .ok (.enqueue r l) →
      l.toNat = w.toNat / 2 ^ 32 % 2 ^ 16 ∧ r.toNat = w.toNat % 2 ^ 32) ∧
    (∀ l, decode cfg w = .ok (.csEnter l) → l.toNat = w.toNat / 2 ^ 48 % 2 ^ 8) ∧
    (∀ l, decode cfg w = .ok (.csExit l) → l.toNat = w.toNat / 2 ^ 48 % 2 ^ 8)

/-- 95_test_vectors.md, section 2.1: words written out bit by bit, one of each of the nine stimuli, decode to the
stimuli the spec says. -/
def Obligations.WrittenOutWordsDecode : Prop :=
  decode Config.default 0x0120004700000000 = .ok (.beginWrite 0x20 0x47) ∧
  decode Config.default 0x0200000000000000 = .ok .beginRead ∧
  decode Config.default 0x0300000000000000 = .ok .pollBusy ∧
  decode Config.default 0x1000000520000100 = .ok (.enqueue 0x20000100 5) ∧
  decode Config.default 0x2002000000000000 = .ok (.csEnter 2) ∧
  decode Config.default 0x2102000000000000 = .ok (.csExit 2) ∧
  decode Config.default 0x8040000A00000000 = .ok (.busEvent 0x40 0x0A) ∧
  decode Config.default 0x8100000000000000 = .ok .xferDone ∧
  decode tableConfig 0x8200000000000000 = .ok .busTimeout ∧
  decode Config.default 0x8200000000000000 = .error .noTimeout

/-- 30_encoding.md, section 6, R106 (D2, log 20): the line written for a stimulus is read as a stimulus with the
same operands. -/
def Obligations.TextLinesReadBack : Prop :=
  ∀ i : Instr, ∃ j : Instr, parseLine (renderLine i) = .ok j ∧ ∀ cfg : Config, j.expand cfg = i.expand cfg

/-- 30_encoding.md, section 6, R107 (D2): a pseudo-stimulus, and a second-level row, has the word of its expansion
and does exactly what its expansion does. -/
def Obligations.SpellingsActAsTheirExpansion : Prop :=
  ∀ (i : Instr) (s : State),
    encode s.env.cfg i = encode s.env.cfg (i.expand s.env.cfg) ∧ exec i s = exec (i.expand s.env.cfg) s

/-! ### One step -/

/-- log 1: a step takes the first input; a word that decodes runs as `exec` says on the state without that input, a
word that spells nothing is refused by name (R103, D25), and with no input the block does nothing (R251). -/
def Obligations.StepRunsTheNextStimulus : Prop :=
  (∀ (s : State) (w : Word) (rest : List Input) (i : Instr),
    s.env.inputs = .word w :: rest → decode s.env.cfg w = .ok i → step s = exec i (s.setInputs rest)) ∧
  (∀ (s : State) (w : Word) (rest : List Input) (e : DecodeError),
    s.env.inputs = .word w :: rest → decode s.env.cfg w = .error e →
      step s = .refused (.invalidStimulus e)) ∧
  (∀ s : State, s.env.inputs = [] → step s = .next s)

/-- 42_transmit.md, section 6, R179 (D18), log 9: in the halted state the halt loop's turn is the ENQUEUE of the
cause's diagnostic descriptor, with a next state when that descriptor is not empty; not halted, it does
nothing. -/
def Obligations.HaltLoopEnqueuesTheDiagnostic : Prop :=
  (∀ (s : State) (rest : List Input) (c : Cause),
    s.env.inputs = .haltEmit :: rest → s.halt = some c → (diagDesc s.env.cfg c).len ≠ 0 →
      ∃ t, step s = .next t ∧
        exec (.enqueue (diagDesc s.env.cfg c).ref (diagDesc s.env.cfg c).len) (s.setInputs rest) = .next t) ∧
  (∀ (s : State) (rest : List Input),
    s.env.inputs = .haltEmit :: rest → s.halt = none → step s = .next (s.setInputs rest))

/-- 20_memory.md, section 7, R76, log 7: a caller's store writes one byte, touches nothing of the block, and, when it
changes the byte, is remembered for exactly the messages, queued or in flight, that cover it. -/
def Obligations.CallerStoresOneByte : Prop :=
  ∀ (s : State) (rest : List Input) (a : Ref) (b : Byte),
    s.env.inputs = .store a b :: rest → Memory.wf s.env.mem = true →
      ∃ t, step s = .next t ∧ memByte t.env.mem a = b ∧
        (∀ a', a' ≠ a → memByte t.env.mem a' = memByte s.env.mem a') ∧ Memory.wf t.env.mem = true ∧
        t.txn = s.txn ∧ t.ien = s.ien ∧ t.bus = s.bus ∧ t.q = s.q ∧ t.dma = s.dma ∧
        t.prioMask = s.prioMask ∧ t.halt = s.halt ∧ t.env.trace = s.env.trace ∧
        ∀ c : Breach, c ∈ t.env.stale ↔
          c ∈ s.env.stale ∨
            (memByte s.env.mem a ≠ b ∧ c.addr = a ∧ c.old = memByte s.env.mem a ∧
              ∃ m, (pending s)[c.message]? = some m ∧ covers a m = true)

/-- Everything that a step can refuse: a word that spells no stimulus (R103), and an empty message (R173, R268, D10),
the halt loop's among them. Every other step has a next state; none faults. -/
def Obligations.StepRefusesOnlyInvalidWordsAndEmptyMessages : Prop :=
  ∀ s : State, (∃ t, step s = .next t) ∨
    (∃ w rest e, s.env.inputs = .word w :: rest ∧ decode s.env.cfg w = .error e ∧
      step s = .refused (.invalidStimulus e)) ∨
    (∃ w rest r, s.env.inputs = .word w :: rest ∧ decode s.env.cfg w = .ok (.enqueue r 0) ∧
      step s = .refused .zeroLengthMessage) ∨
    (∃ rest c, s.env.inputs = .haltEmit :: rest ∧ s.halt = some c ∧ (diagDesc s.env.cfg c).len = 0 ∧
      step s = .refused .zeroLengthMessage)

/-! ### Host commands (40_bus_commands.md) -/

/-- 40_bus_commands.md, sections 2 and 3, R121, R122 (D6): BEGIN_WRITE on an idle engine. A leftover latch is
discarded; `readings`, `bus.ack`, the mask, the queue and the accelerator are not written. -/
def Obligations.BeginWriteArmsTheWrite : Prop :=
  ∀ (register value : Byte) (s : State), s.halt = none → s.txn.busy = false →
    ∃ t, exec (.beginWrite register value) s = .next t ∧
      EngineMoves s t
        { direction := .write, busy := true, step := 0, register := register, writeValue := value,
          currentAxis := .x, readings := s.txn.readings }
        ⟨true, true, false⟩ { ack := s.bus.ack, flags := 0, data := 0, pend := false } [.clrStatus, .ctlStart]

/-- 40_bus_commands.md, sections 4 and 5, R123, R124 (D6, D24): BEGIN_READ and TICK on an idle engine; `writeValue`
and `readings` are kept. -/
def Obligations.BeginReadArmsTheRead : Prop :=
  ∀ (i : Instr) (s : State), (i = .beginRead ∨ i = .tick) → s.halt = none → s.txn.busy = false →
    ∃ t, exec i s = .next t ∧
      EngineMoves s t
        { direction := .read, busy := true, step := 0, register := s.env.cfg.axisX,
          writeValue := s.txn.writeValue, currentAxis := .x, readings := s.txn.readings }
        ⟨true, false, false⟩ { ack := s.bus.ack, flags := 0, data := 0, pend := false } [.clrStatus, .ctlStart]

/-- R127, R213: a begin while busy changes `halt` and emits `FATAL(PRECONDITION)`, and nothing else. -/
def Obligations.BeginWhileBusyIsFatal : Prop :=
  ∀ (i : Instr) (s : State), ((∃ r v, i = .beginWrite r v) ∨ i = .beginRead ∨ i = .tick) →
    s.halt = none → s.txn.busy = true →
      exec i s = .next
        { s with halt := some .precondition,
                 env := { s.env with trace := s.env.trace ++ [.fatal .precondition] } }

/-- 40_bus_commands.md, section 6, R125 (D32): POLL_BUSY answers `BUSY(txn.busy)` and writes nothing of the engine. -/
def Obligations.PollBusyAnswers : Prop :=
  ∀ s : State, s.halt = none → busReq s = false →
    ∃ t, exec .pollBusy s = .next t ∧ EngineMoves s t s.txn s.ien s.bus [.busy s.txn.busy]

/-- 60_exceptions.md, section 2, R215 (D18): in the halted state every stimulus that exists but those of the
transmit path is ignored: no state change, no output. -/
def Obligations.HaltedIgnoresAllButTransmit : Prop :=
  ∀ (i : Instr) (s : State), s.halt ≠ none → i.wellFormed s.env.cfg = true →
    (∀ r l, i ≠ .enqueue r l) → i ≠ .xferDone → exec i s = .next s

/-- 41_bus_event_steps.md, section 5, R157 and R103 (D23, D25): BUS_TIMEOUT, where it exists, aborts the transaction:
STOP, release, report; the step number, the readings and the latch stay. With nothing to abort it changes nothing;
without `HAS_TIMEOUT` it is refused by name. -/
def Obligations.BusTimeoutAborts : Prop :=
  (∀ s : State, s.env.cfg.hasTimeout = true → s.halt = none → s.txn.busy = true →
    ∃ t, exec .busTimeout s = .next t ∧
      EngineMoves s t { s.txn with busy := false } ⟨false, false, false⟩ s.bus
        [.ctlStop, .txnFailed s.txn.direction s.txn.step]) ∧
  (∀ s : State, s.env.cfg.hasTimeout = true → s.halt = none → s.txn.busy = false →
    exec .busTimeout s = .next s) ∧
  (∀ s : State, s.env.cfg.hasTimeout = false → exec .busTimeout s = .refused (.invalidStimulus .noTimeout))

/-! ### The handler (41_bus_event_steps.md) -/

/-- R144, R145, R146: W1, W2 and W3, whatever flags come beside the awaited one; without it nothing happens. -/
def Obligations.HandlerRunsWriteSteps : Prop :=
  ∀ (f : FlagVec) (d : Byte) (s : State), s.txn.busy = true → s.txn.direction = .write →
    (s.txn.step = 0 →
      onBusEvent f d s =
        if observed .sb f = true then
          { s with txn := { s.txn with step := 1 },
                   env := { s.env with trace := s.env.trace ++ [.drWrite (addrByte s.env.cfg .write)] } }
        else s) ∧
    (s.txn.step = 1 →
      onBusEvent f d s =
        if observed .addr f = true then
          { s with txn := { s.txn with step := 2 },
                   env := { s.env with trace := s.env.trace ++ [.clrAddr, .drWrite s.txn.register] } }
        else s) ∧
    (s.txn.step = 2 →
      onBusEvent f d s =
        if observed .txe f = true then
          { s with txn := { s.txn with step := 3 }, ien := { s.ien with tx := false },
                   env := { s.env with trace := s.env.trace ++ [.drWrite s.txn.writeValue] } }
        else s)

/-- R148, R150, R152: RD1, RD3 and RD5, whatever flags come beside the awaited one; without it nothing happens. RD5
issues STOP on axis Z only. -/
def Obligations.HandlerRunsReadSteps : Prop :=
  ∀ (f : FlagVec) (d : Byte) (s : State), s.txn.busy = true → s.txn.direction = .read →
    (s.txn.step = 0 →
      onBusEvent f d s =
        if observed .sb f = true then
          { s with txn := { s.txn with step := 1 },
                   env := { s.env with trace := s.env.trace ++ [.drWrite (addrByte s.env.cfg .write)] } }
        else s) ∧
    (s.txn.step = 2 →
      onBusEvent f d s =
        if observed .btf f = true then
          { s with txn := { s.txn with step := 3 },
                   env := { s.env with trace := s.env.trace ++ [.ctlStart] } }
        else s) ∧
    (s.txn.step = 4 →
      onBusEvent f d s =
        if observed .addr f = true then
          { s with txn := { s.txn with step := 5 }, ien := { s.ien with rx := true },
                   env := { s.env with trace :=
                     s.env.trace ++ .clrAddr :: (if s.txn.currentAxis = .z then [.ctlStop] else []) } }
        else s)

/-- R142: at every defined step, a presentation without the awaited flag changes no field and emits nothing, and the
flags beside the awaited one do not matter. -/
def Obligations.UnrelatedFlagIsNoOp : Prop :=
  ∀ (f g : FlagVec) (d : Byte) (s : State) (k : StepLabel), s.txn.busy = true →
    stepAt s.txn.direction s.txn.step = some k →
      (observed (awaited k) f = false → onBusEvent f d s = s) ∧
      (observed (awaited k) f = observed (awaited k) g → onBusEvent f d s = onBusEvent g d s)

/-- R154: the undefined pairs are (WRITE, 4..7) and (READ, 6..7); there the handler raises `Fatal(SEQUENCING)` whatever
the flags are, no other field changes, and no state that meets the invariants is busy at one. -/
def Obligations.UndefinedPairIsFatal : Prop :=
  (∀ (d : Direction) (k : StepNo),
    stepAt d k = none ↔ (d = .write ∧ 4 ≤ k.toNat ∨ d = .read ∧ 6 ≤ k.toNat)) ∧
  (∀ (f : FlagVec) (d : Byte) (s : State), s.txn.busy = true → stepAt s.txn.direction s.txn.step = none →
    onBusEvent f d s =
      { s with halt := some .sequencing,
               env := { s.env with trace := s.env.trace ++ [.fatal .sequencing] } }) ∧
  (∀ s : State, Invariants s → s.txn.busy = true → stepAt s.txn.direction s.txn.step ≠ none)

/-! ### BUS_EVENT and its rows as stimuli -/

/-- 41_bus_event_steps.md, section 1, R140, and 43_critical_section.md, section 3, R193 (D15, D16): a presentation
that the gate or the mask holds back is latched whole, replacing any earlier one, and no step runs; under every
spelling. -/
def Obligations.HeldPresentationIsOnlyLatched : Prop :=
  ∀ (i : Instr) (f : FlagVec) (d : Byte) (s : State), presentation i = some (f, d) → s.halt = none →
    (gate s.ien f = false ∨ s.env.cfg.pBus ≤ s.prioMask) →
      ∃ t, exec i s = .next t ∧
        EngineMoves s t s.txn s.ien { ack := s.bus.ack, flags := f, data := d, pend := true } []

/-- R142 as a stimulus (D15, D16): a presentation that is delivered at a defined step without the awaited flag
changes nothing but the latch; under every spelling. -/
def Obligations.UnrelatedPresentationIsNoOp : Prop :=
  ∀ (i : Instr) (f : FlagVec) (d : Byte) (s : State) (k : StepLabel), presentation i = some (f, d) →
    s.halt = none → s.txn.busy = true → stepAt s.txn.direction s.txn.step = some k →
    gate s.ien f = true → s.prioMask < s.env.cfg.pBus → observed (awaited k) f = false →
      ∃ t, exec i s = .next t ∧
        EngineMoves s t s.txn s.ien { ack := s.bus.ack, flags := f, data := d, pend := false } []

/-- 41_bus_event_steps.md, section 3, W1 (R144), and section 4, RD1 (R148), as stimuli (D15, D16): SB at step 0
transmits the address byte in write direction. BUS_EVENT, BUS_EVENT.W1 in a WRITE, BUS_EVENT.RD1 in a READ,
EV_SB. -/
def Obligations.StartSentTransmitsTheAddress : Prop :=
  ∀ (i : Instr) (f : FlagVec) (d : Byte) (s : State),
    (i = .busEvent f d ∨ (i = .busEventW1 f d ∧ s.txn.direction = .write) ∨
      (i = .busEventRd1 f d ∧ s.txn.direction = .read) ∨ (i = .evSb ∧ f = 0x01 ∧ d = 0)) →
    s.halt = none → s.txn.busy = true → s.txn.step = 0 → s.ien.evt = true → s.prioMask < s.env.cfg.pBus →
    observed .sb f = true →
      ∃ t, exec i s = .next t ∧
        EngineMoves s t { s.txn with step := 1 } s.ien
          { ack := s.bus.ack, flags := f, data := d, pend := false } [.drWrite (addrByte s.env.cfg .write)]

/-- 41_bus_event_steps.md, section 3, W2 (R145), as a stimulus (D15, D16): BUS_EVENT, BUS_EVENT.W2, EV_ADDR. -/
def Obligations.AddressedWriteSendsTheRegister : Prop :=
  ∀ (i : Instr) (f : FlagVec) (d : Byte) (s : State),
    (i = .busEvent f d ∨ i = .busEventW2 f d ∨ (i = .evAddr ∧ f = 0x02 ∧ d = 0)) →
    s.halt = none → s.txn.busy = true → s.txn.direction = .write → s.txn.step = 1 → s.ien.evt = true →
    s.prioMask < s.env.cfg.pBus → observed .addr f = true →
      ∃ t, exec i s = .next t ∧
        EngineMoves s t { s.txn with step := 2 } s.ien
          { ack := s.bus.ack, flags := f, data := d, pend := false } [.clrAddr, .drWrite s.txn.register]

/-- 41_bus_event_steps.md, section 3, W3 (R146), as a stimulus (D15, D16): BUS_EVENT, BUS_EVENT.W3, EV_TXE. TXE
passes the gate only with `ien.tx`; with BTF beside it the presentation passes without. -/
def Obligations.EmptyTransmitterSendsTheValue : Prop :=
  ∀ (i : Instr) (f : FlagVec) (d : Byte) (s : State),
    (i = .busEvent f d ∨ i = .busEventW3 f d ∨ (i = .evTxe ∧ f = 0x80 ∧ d = 0)) →
    s.halt = none → s.txn.busy = true → s.txn.direction = .write → s.txn.step = 2 → gate s.ien f = true →
    s.prioMask < s.env.cfg.pBus → observed .txe f = true →
      ∃ t, exec i s = .next t ∧
        EngineMoves s t { s.txn with step := 3 } { s.ien with tx := false }
          { ack := s.bus.ack, flags := f, data := d, pend := false } [.drWrite s.txn.writeValue]

/-- 41_bus_event_steps.md, section 3, W4 (R147), as a stimulus (D4, D6, D15, D16, D26): STOP, release, then
`WRITE_COMPLETE`. BUS_EVENT, BUS_EVENT.W4, EV_BTF. -/
def Obligations.FinishedWriteReleasesAndNotifies : Prop :=
  ∀ (i : Instr) (f : FlagVec) (d : Byte) (s : State),
    (i = .busEvent f d ∨ i = .busEventW4 f d ∨ (i = .evBtf ∧ f = 0x04 ∧ d = 0)) →
    s.halt = none → s.txn.busy = true → s.txn.direction = .write → s.txn.step = 3 → s.ien.evt = true →
    s.prioMask < s.env.cfg.pBus → observed .btf f = true →
      ∃ t, exec i s = .next t ∧
        EngineMoves s t { s.txn with busy := false, step := 4 } ⟨false, false, false⟩
          { ack := s.bus.ack, flags := f, data := d, pend := false } [.ctlStop, .writeComplete]

/-- 41_bus_event_steps.md, section 4, RD2 (R149), as a stimulus (D7 for `CLR_ADDR`, D15, D16): the register address
of the current axis is sent. BUS_EVENT, BUS_EVENT.RD2, EV_ADDR. -/
def Obligations.AddressedReadSelectsTheAxis : Prop :=
  ∀ (i : Instr) (f : FlagVec) (d : Byte) (s : State),
    (i = .busEvent f d ∨ i = .busEventRd2 f d ∨ (i = .evAddr ∧ f = 0x02 ∧ d = 0)) →
    s.halt = none → s.txn.busy = true → s.txn.direction = .read → s.txn.step = 1 → s.ien.evt = true →
    s.prioMask < s.env.cfg.pBus → observed .addr f = true →
      ∃ t, exec i s = .next t ∧
        EngineMoves s t { s.txn with step := 2 } s.ien
          { ack := s.bus.ack, flags := f, data := d, pend := false }
          [.clrAddr, .drWrite (axisReg s.env.cfg s.txn.currentAxis)]

/-- 41_bus_event_steps.md, section 4, RD3 (R150), as a stimulus (D15, D16): a repeated START and no STOP. BUS_EVENT,
BUS_EVENT.RD3, EV_BTF. -/
def Obligations.SelectedReadRepeatsTheStart : Prop :=
  ∀ (i : Instr) (f : FlagVec) (d : Byte) (s : State),
    (i = .busEvent f d ∨ i = .busEventRd3 f d ∨ (i = .evBtf ∧ f = 0x04 ∧ d = 0)) →
    s.halt = none → s.txn.busy = true → s.txn.direction = .read → s.txn.step = 2 → s.ien.evt = true →
    s.prioMask < s.env.cfg.pBus → observed .btf f = true →
      ∃ t, exec i s = .next t ∧
        EngineMoves s t { s.txn with step := 3 } s.ien
          { ack := s.bus.ack, flags := f, data := d, pend := false } [.ctlStart]

/-- 41_bus_event_steps.md, section 4, RD4 (R151), as a stimulus (D8 for bit 0 of the byte, D15, D16): the address
byte in read direction, then NACK armed on every axis. BUS_EVENT, BUS_EVENT.RD4, EV_SB. -/
def Obligations.RepeatedStartArmsNack : Prop :=
  ∀ (i : Instr) (f : FlagVec) (d : Byte) (s : State),
    (i = .busEvent f d ∨ i = .busEventRd4 f d ∨ (i = .evSb ∧ f = 0x01 ∧ d = 0)) →
    s.halt = none → s.txn.busy = true → s.txn.direction = .read → s.txn.step = 3 → s.ien.evt = true →
    s.prioMask < s.env.cfg.pBus → observed .sb f = true →
      ∃ t, exec i s = .next t ∧
        EngineMoves s t { s.txn with step := 4 } s.ien
          { ack := false, flags := f, data := d, pend := false } [.drWrite (addrByte s.env.cfg .read), .ctlNack]

/-- 41_bus_event_steps.md, section 4, RD5 (R152), as a stimulus (D15, D16): the "byte received" source armed, STOP
on axis Z only. BUS_EVENT, BUS_EVENT.RD5, EV_ADDR. -/
def Obligations.AddressedReceiveArmsTheByteSource : Prop :=
  ∀ (i : Instr) (f : FlagVec) (d : Byte) (s : State),
    (i = .busEvent f d ∨ i = .busEventRd5 f d ∨ (i = .evAddr ∧ f = 0x02 ∧ d = 0)) →
    s.halt = none → s.txn.busy = true → s.txn.direction = .read → s.txn.step = 4 → s.ien.evt = true →
    s.prioMask < s.env.cfg.pBus → observed .addr f = true →
      ∃ t, exec i s = .next t ∧
        EngineMoves s t { s.txn with step := 5 } { s.ien with rx := true }
          { ack := s.bus.ack, flags := f, data := d, pend := false }
          (.clrAddr :: if s.txn.currentAxis = .z then [.ctlStop] else [])

/-- 41_bus_event_steps.md, section 4, RD6 (R153), as a stimulus (D4, D15, D16, D26): the byte is stored in the
current axis's slot; on X and Y the next axis is selected and the loop goes back to RD1 with a START, on Z the
transaction is released and `READ_COMPLETE` carries the three readings. BUS_EVENT, BUS_EVENT.RD6, EV_RXNE. -/
def Obligations.ReceivedByteIsStored : Prop :=
  ∀ (i : Instr) (f : FlagVec) (d : Byte) (s : State),
    (i = .busEvent f d ∨ i = .busEventRd6 f d ∨ (i = .evRxne d ∧ f = 0x40)) →
    s.halt = none → s.txn.busy = true → s.txn.direction = .read → s.txn.step = 5 → gate s.ien f = true →
    s.prioMask < s.env.cfg.pBus → observed .rxne f = true →
      ∃ t, exec i s = .next t ∧
        (s.txn.currentAxis = .x →
          EngineMoves s t
            { s.txn with readings := { s.txn.readings with x := d }, currentAxis := .y,
                         register := s.env.cfg.axisY, step := 0 }
            { s.ien with rx := false } { ack := s.bus.ack, flags := f, data := d, pend := false }
            [.drRead d, .ctlStart]) ∧
        (s.txn.currentAxis = .y →
          EngineMoves s t
            { s.txn with readings := { s.txn.readings with y := d }, currentAxis := .z,
                         register := s.env.cfg.axisZ, step := 0 }
            { s.ien with rx := false } { ack := s.bus.ack, flags := f, data := d, pend := false }
            [.drRead d, .ctlStart]) ∧
        (s.txn.currentAxis = .z →
          EngineMoves s t
            { s.txn with readings := { s.txn.readings with z := d }, busy := false, step := 6 }
            ⟨false, false, false⟩ { ack := s.bus.ack, flags := f, data := d, pend := false }
            [.drRead d, .readComplete s.txn.readings.x s.txn.readings.y d])

/-- 41_bus_event_steps.md, section 5, R154, R155 (D4, D15, D16, D19), log 11: a presentation delivered at an
undefined pair, or with no transaction busy, halts with cause SEQUENCING. BUS_EVENT and BUS_EVENT.UNDEFINED. -/
def Obligations.UndefinedPresentationHalts : Prop :=
  ∀ (i : Instr) (f : FlagVec) (d : Byte) (s : State), (i = .busEvent f d ∨ i = .busEventUndefined f d) →
    s.halt = none → (s.txn.busy = false ∨ stepAt s.txn.direction s.txn.step = none) →
    gate s.ien f = true → s.prioMask < s.env.cfg.pBus →
      ∃ t, exec i s = .next t ∧ t.halt = some .sequencing ∧ t.txn = s.txn ∧ t.ien = s.ien ∧
        t.bus = { ack := s.bus.ack, flags := f, data := d, pend := false } ∧ t.prioMask = s.prioMask ∧
        engineTrace t = engineTrace s ++ [.fatal .sequencing] ∧ SameSurroundings s t ∧
        (s.dma.tc = false → t.q = s.q ∧ t.dma = s.dma ∧ transmitTrace t = transmitTrace s) ∧
        (s.dma.tc = true →
          t.q = (onTransferComplete s).q ∧ t.dma = (onTransferComplete s).dma ∧
            transmitTrace t = transmitTrace (onTransferComplete s))

/-! ### The transmit path (42_transmit.md) -/

/-- 42_transmit.md, section 3, R173 (D10, D11): ENQUEUE on an idle accelerator appends and starts the oldest
descriptor, which is the one just enqueued when the queue was empty; also in the halted state (R179). -/
def Obligations.EnqueueOnIdleStarts : Prop :=
  ∀ (r : Ref) (l : Len) (s : State), l ≠ 0 → queueFull s = false → idle s = true → NoBusHandler s →
    ∃ d : Desc,
      (queueEmpty s = true → cellsWf noDesc s.q.slots = true → d = ⟨r, l⟩) ∧
      d = cellGet noDesc (cellPut noDesc s.q.tail ⟨r, l⟩ s.q.slots) s.q.head ∧
      exec (.enqueue r l) s = .next
        { s with
          q := { head := ringNext s.env.cfg s.q.head, tail := ringNext s.env.cfg s.q.tail,
                 slots := cellPut noDesc s.q.tail ⟨r, l⟩ s.q.slots }
          dma := { src := d.ref, len := d.len, active := true, tc := false }
          env := { s.env with trace := s.env.trace ++ [.dmaStart d.ref d.len] } }

/-- 42_transmit.md, section 3, R173 (D10): ENQUEUE while the accelerator is not idle appends and starts nothing,
whatever transfer or held-back completion there is; a completion that can be handled is handled after it. -/
def Obligations.EnqueueOnBusyOnlyAppends : Prop :=
  ∀ (r : Ref) (l : Len) (s : State), l ≠ 0 → queueFull s = false → idle s = false → NoBusHandler s →
    let u : State := { s with q := { s.q with tail := ringNext s.env.cfg s.q.tail,
                                              slots := cellPut noDesc s.q.tail ⟨r, l⟩ s.q.slots } }
    (willComplete s = false → exec (.enqueue r l) s = .next u) ∧
    (willComplete s = true → exec (.enqueue r l) s = .next (onTransferComplete u))

/-- 60_exceptions.md, section 2, R217: ENQUEUE on a full queue changes no state and emits nothing of its own. Its
`Deliver()` (42_transmit.md, R173) still handles a completion that can be handled, which from reset only the fatal
halt leaves pending (R179, R194). -/
def Obligations.EnqueueOnFullDrops : Prop :=
  ∀ (r : Ref) (l : Len) (s : State), l ≠ 0 → queueFull s = true → NoBusHandler s →
    (willComplete s = false → exec (.enqueue r l) s = .next s) ∧
    (willComplete s = true → exec (.enqueue r l) s = .next (onTransferComplete s))

/-- 42_transmit.md, section 3, R173, and 70_reset_and_hazards.md, section 3, R268 (D10): an empty message is refused,
in every state. -/
def Obligations.EmptyMessageIsRefused : Prop :=
  ∀ (r : Ref) (s : State), exec (.enqueue r 0) s = .refused .zeroLengthMessage

/-- 42_transmit.md, sections 4 and 5, R174, R175 (D12, D17, D21, D30): XFER_DONE with a transfer in flight sends its
bytes and leaves the completion pending; the handler then acknowledges it and starts the next message, unless the
mask holds it; in the halted state the mask does not (R179). The breaches of the contract of R76 that are
remembered for the message sent are over, those of every other message stay with it, and free values are used up
only where the message sent had one (log 7). With nothing in flight it has no effect. -/
def Obligations.XferDoneSendsAndServes : Prop :=
  (∀ s : State, s.dma.active = true → NoBusHandler s →
    ∃ t, exec .xferDone s = .next t ∧
      t.txn = s.txn ∧ t.ien = s.ien ∧ t.bus = s.bus ∧ t.prioMask = s.prioMask ∧ t.halt = s.halt ∧
      t.env.cfg = s.env.cfg ∧ t.env.inputs = s.env.inputs ∧ t.env.mem = s.env.mem ∧
      (∀ c : Breach, c ∈ t.env.stale ↔ (⟨c.message + 1, c.addr, c.old⟩ : Breach) ∈ s.env.stale) ∧
      ((∀ c ∈ s.env.stale, c.message ≠ 0) → t.env.freeCount = s.env.freeCount) ∧
      ((∃ c ∈ s.env.stale, c.message = 0) → t.env.freeCount = s.env.freeCount + s.dma.len.toNat) ∧
      (s.halt = none → s.env.cfg.pXfer ≤ s.prioMask →
        t.q = s.q ∧ t.dma = { s.dma with active := false, tc := true } ∧
          t.env.trace = s.env.trace ++ [.txBytes (sentBytes s)]) ∧
      ((s.halt ≠ none ∨ s.prioMask < s.env.cfg.pXfer) → queueEmpty s = true →
        t.q = s.q ∧ t.dma = { s.dma with active := false, tc := false } ∧
          t.env.trace = s.env.trace ++ [.txBytes (sentBytes s), .dmaAck]) ∧
      ((s.halt ≠ none ∨ s.prioMask < s.env.cfg.pXfer) → queueEmpty s = false →
        t.q = { s.q with head := ringNext s.env.cfg s.q.head } ∧
          t.dma = { src := (slotAt s s.q.head).ref, len := (slotAt s s.q.head).len, active := true,
                    tc := false } ∧
          t.env.trace = s.env.trace ++ [.txBytes (sentBytes s), .dmaAck,
            .dmaStart (slotAt s s.q.head).ref (slotAt s s.q.head).len])) ∧
  (∀ s : State, s.dma.active = false → exec .xferDone s = .next s)

/-- 20_memory.md, section 7, R76, and 93_implementation_defined.md, U4 (log 7): under the callers' contract for the
message in flight (number 0) the bytes sent are `MemRead(dma.src, dma.len)`, whatever was stored into other
messages or before its ENQUEUE; broken, each byte sent is the byte there or one it replaced meanwhile, for every
value of the free choice. A message has no breach when it is accepted. -/
def Obligations.SentBytesAreTheMessage : Prop :=
  (∀ s : State,
    ((∀ c ∈ s.env.stale, c.message = 0 → covers c.addr ⟨s.dma.src, s.dma.len⟩ = false) →
      sentBytes s = memRead s.env.mem s.dma.src s.dma.len.toNat) ∧
    (∀ k, k < s.dma.len.toNat →
      ∃ b, (sentBytes s)[k]? = some b ∧
        (b = memByte s.env.mem (s.dma.src + BitVec.ofNat 32 k) ∨
          (⟨0, s.dma.src + BitVec.ofNat 32 k, b⟩ : Breach) ∈ s.env.stale))) ∧
  (∀ (r : Ref) (l : Len) (s t : State), Invariants s → queueFull s = false → exec (.enqueue r l) s = .next t →
    (pending t).getLast? = some ⟨r, l⟩ ∧ ∀ c ∈ t.env.stale, c.message + 1 < (pending t).length)

/-! ### Critical section, gate and delivery (43_critical_section.md) -/

/-- 43_critical_section.md, section 2, R191 (D13, D14), and R107 for CS_BEGIN: the answer is the mask before the
raise, the mask becomes the larger of the two, and nothing else changes. -/
def Obligations.CsEnterRaisesTheMask : Prop :=
  ∀ (i : Instr) (level : Level) (s : State),
    (i = .csEnter level ∨ (i = .csBegin ∧ level = s.env.cfg.pCs)) → s.halt = none → busReq s = false →
    xferReq s = false →
      ∃ t, exec i s = .next t ∧ t = { s with prioMask := t.prioMask,
                                             env := { s.env with trace := s.env.trace ++ [.prior s.prioMask] } } ∧
        t.prioMask.toNat = max s.prioMask.toNat level.toNat

/-- 43_critical_section.md, sections 2 and 3, R192, R194 (D13, D14, D17): CS_EXIT writes the mask and delivers what is
now above it, the larger level first, each once. When the event alone is above it, a completion held back is still
handled if the bus handler halts the block (42_transmit.md, R179; log 11). Clauses 4 and 5 give the whole next
state and with it the order of bus and transmit actions in one delivery, which is the model's (D34; log 19, a DESIGN
CHOICE): no claim about the order on the original. -/
def Obligations.CsExitDeliversByPriority : Prop :=
  ∀ (level : Level) (s : State), s.halt = none →
    let u := s.setMask level
    (busReq u = false → xferReq u = false → exec (.csExit level) s = .next u) ∧
    (busReq u = false → xferReq u = true → exec (.csExit level) s = .next (onTransferComplete u)) ∧
    (busReq u = true → xferReq u = false →
      let v := onBusEvent s.bus.flags s.bus.data (u.setPend false)
      (v.halt = none ∨ s.dma.tc = false → exec (.csExit level) s = .next v) ∧
      (v.halt ≠ none → s.dma.tc = true → exec (.csExit level) s = .next (onTransferComplete v))) ∧
    (busReq u = true → xferReq u = true → s.env.cfg.pBus < s.env.cfg.pXfer →
      exec (.csExit level) s =
        .next (onBusEvent s.bus.flags s.bus.data ((onTransferComplete u).setPend false))) ∧
    (busReq u = true → xferReq u = true → s.env.cfg.pXfer < s.env.cfg.pBus →
      exec (.csExit level) s =
        .next (onTransferComplete (onBusEvent s.bus.flags s.bus.data (u.setPend false))))

/-- 43_critical_section.md, section 3, R194, and U8 (log 8): with both requests asserted at equal levels the engine
and the transmit path end as after either order, for every value of the free choice. The
order of bus and transmit actions in the trace is the model's (D34; log 19). -/
def Obligations.EqualLevelsAdmitEitherOrder : Prop :=
  ∀ (level : Level) (s : State), s.halt = none → s.env.cfg.pBus = s.env.cfg.pXfer →
    busReq (s.setMask level) = true → xferReq (s.setMask level) = true →
      ∃ t, exec (.csExit level) s = .next t ∧
        t.txn = (runBusHandler s).txn ∧ t.ien = (runBusHandler s).ien ∧ t.bus = (runBusHandler s).bus ∧
        t.halt = (runBusHandler s).halt ∧ t.q = (onTransferComplete s).q ∧
        t.dma = (onTransferComplete s).dma ∧ t.prioMask = level ∧
        (t.env.trace = (onTransferComplete (runBusHandler s)).env.trace ∨
          t.env.trace = (runBusHandler (onTransferComplete s)).env.trace)

/-- 43_critical_section.md, section 3, R193 (D16): the gate's truth table. -/
def Obligations.GateTruthTable : Prop :=
  ∀ (ien : Enables) (f : FlagVec),
    gate ien f = true ↔
      ien.evt = true ∧ (f.getLsbD 0 = true ∨ f.getLsbD 1 = true ∨ f.getLsbD 2 = true ∨
        (ien.tx = true ∧ f.getLsbD 7 = true) ∨ (ien.rx = true ∧ f.getLsbD 6 = true))

/-- 43_critical_section.md, section 4, R196 (D34): the two handlers write disjoint state, so the two orders end in the
same engine, queue, accelerator and mask, with the same two traces side by side. -/
def Obligations.HandlersCommute : Prop :=
  ∀ (f : FlagVec) (d : Byte) (s : State),
    let a := onTransferComplete (onBusEvent f d s)
    let b := onBusEvent f d (onTransferComplete s)
    a.txn = b.txn ∧ a.ien = b.ien ∧ a.bus = b.bus ∧ a.halt = b.halt ∧ a.q = b.q ∧ a.dma = b.dma ∧
      a.prioMask = b.prioMask ∧ engineTrace a = engineTrace b ∧ transmitTrace a = transmitTrace b

/-! ### Whole-machine rules -/

/-- 10_state.md, section 6, R40, and 43_critical_section.md, section 4, R195 (D13): only CS_ENTER and CS_EXIT (and
CS_BEGIN) move the mask; ENQUEUE and the acquisitions restore it. -/
def Obligations.OnlySectionCommandsMoveTheMask : Prop :=
  ∀ (i : Instr) (s t : State), exec i s = .next t → (∀ l, i ≠ .csEnter l) → (∀ l, i ≠ .csExit l) →
    i ≠ .csBegin → t.prioMask = s.prioMask

/-- R41: nothing ever sets `halt` back; in the halted state the bus engine and the mask do not move, in any step. -/
def Obligations.HaltIsForEver : Prop :=
  ∀ (s t : State) (c : Cause), s.halt = some c → step s = .next t →
    t.halt = some c ∧ t.txn = s.txn ∧ t.ien = s.ien ∧ t.bus = s.bus ∧ t.prioMask = s.prioMask

/-- 60_exceptions.md, section 1, R211 (D18, D19): what raises each cause. PRECONDITION only by a begin while busy;
SEQUENCING only by the handler at an undefined pair or with no transaction busy. -/
def Obligations.FatalCauses : Prop :=
  ∀ (i : Instr) (s t : State) (c : Cause), exec i s = .next t → s.halt = none → t.halt = some c →
    (c = .precondition ∧ isBegin i = true ∧ s.txn.busy = true) ∨
    (c = .sequencing ∧ isBegin i = false ∧
      (s.txn.busy = false ∨ stepAt s.txn.direction s.txn.step = none))

/-- R27: slot `i` of the readings is written only by step RD6 when `txn.currentAxis = i`. -/
def Obligations.ReadingsAreWrittenByRd6Only : Prop :=
  ∀ (i : Instr) (s t : State) (a : Axis), exec i s = .next t →
    t.txn.readings.get a ≠ s.txn.readings.get a →
      s.txn.busy = true ∧ stepAt s.txn.direction s.txn.step = some .rd6 ∧ s.txn.currentAxis = a

/-- R31: the only write of `bus.ack` is step RD4, which clears it; no rule sets it to 1. -/
def Obligations.AckIsClearedByRd4Only : Prop :=
  ∀ (i : Instr) (s t : State), exec i s = .next t → t.bus.ack ≠ s.bus.ack →
    t.bus.ack = false ∧ s.txn.busy = true ∧ stepAt s.txn.direction s.txn.step = some .rd4

/-- R37: the tail and the slots are written by ENQUEUE only, at `q.tail` only; `q.head` is written by `StartNext`
only, which emits a `DMA_START`. -/
def Obligations.QueueWriters : Prop :=
  ∀ (i : Instr) (s t : State), exec i s = .next t →
    ((∀ r l, i ≠ .enqueue r l) → t.q.tail = s.q.tail ∧ t.q.slots = s.q.slots) ∧
    (cellsWf noDesc s.q.slots = true → ∀ k, k ≠ s.q.tail → slotAt t k = slotAt s k) ∧
    (started t = started s → t.q.head = s.q.head)

/-- R62: the block never writes message memory: every byte of every address reads as before, after any stimulus;
the parameters are as before too, and so are the remembered breaches (log 7), but after XFER_DONE. -/
def Obligations.NoStimulusWritesMessageMemory : Prop :=
  ∀ (i : Instr) (s t : State), exec i s = .next t →
    (∀ a : Ref, memByte t.env.mem a = memByte s.env.mem a) ∧ t.env.cfg = s.env.cfg ∧
      (i ≠ .xferDone → t.env.stale = s.env.stale)

/-- R156: with no timeout and no begin, as long as no presentation carries the awaited flag, the transaction stays
busy at its step for ever and nothing halts, whatever else happens. -/
def Obligations.StalledTransactionStaysStuck : Prop :=
  ∀ (k : StepLabel) (l : List Instr) (s t : State),
    s.halt = none → s.txn.busy = true → stepAt s.txn.direction s.txn.step = some k →
    (s.bus.pend = true → observed (awaited k) s.bus.flags = false) →
    (∀ i ∈ l, isBegin i = false ∧ i ≠ .busTimeout ∧
      ∀ f d, presentation i = some (f, d) → observed (awaited k) f = false) →
    runAll l s = .next t → t.txn = s.txn ∧ t.halt = none

/-! ### Reset and invariants -/

/-- 10_state.md, section 9, R43 (D20): the reset values the spec gives. -/
def Obligations.ResetState : Prop :=
  State.reset.txn.busy = false ∧ State.reset.txn.step = 0 ∧ State.reset.txn.currentAxis = .x ∧
  State.reset.ien = ⟨false, false, false⟩ ∧ State.reset.bus.pend = false ∧ State.reset.bus.flags = 0 ∧
  State.reset.bus.data = 0 ∧ State.reset.q.head = 0 ∧ State.reset.q.tail = 0 ∧
  State.reset.dma.active = false ∧ State.reset.dma.tc = false ∧ State.reset.prioMask = 0 ∧
  State.reset.halt = none ∧ State.reset.env.trace = []

/-- 10_state.md, section 9, R44 (derived, as the spec marks it): the invariants hold at reset. -/
def Obligations.InvariantsHoldAtReset : Prop :=
  Invariants State.reset ∧ tracePhase State.reset.env.trace = some (dmaPhase State.reset.dma)

/-- 10_state.md, section 9, R44 (derived, as the spec marks it): every step keeps the invariants, from every state
that meets them, under every value of the parameters. Their last clause is about the model's own record (log 7). -/
def Obligations.StepKeepsTheInvariants : Prop :=
  ∀ s t : State, Invariants s → step s = .next t → Invariants t

/-- 42_transmit.md, section 6, R176 (the spec marks its exact form as derived from R172 to R175, so this is derived
too): in every output trace each `DMA_START` is followed by one `TX_BYTES` and then one `DMA_ACK` before the
next `DMA_START`, and the accelerator's fields say where between them it stands: at most one transfer is in flight,
in every state reached by any number of steps. -/
def Obligations.AtMostOneTransferInFlight : Prop :=
  ∀ s t : State, Invariants s → tracePhase s.env.trace = some (dmaPhase s.dma) → Reaches s t →
    tracePhase t.env.trace = some (dmaPhase t.dma) ∧ ¬(t.dma.active = true ∧ t.dma.tc = true)

/-- R177: the descriptors started so far followed by those still queued grow, at each stimulus, by the accepted
ENQUEUE's operand at the end and by nothing else: messages leave in the order they were accepted, each once, and a
dropped one never. The messages in flight or queued are numbered from the oldest: XFER_DONE takes the first off, an
accepted ENQUEUE adds one at the end, nothing else changes them. -/
def Obligations.MessagesLeaveInOrder : Prop :=
  ∀ (i : Instr) (s t : State), Invariants s → exec i s = .next t →
    started t ++ queued t = started s ++ queued s ++ accepted s i ∧
      (i = .xferDone → s.dma.active = true → pending s = ⟨s.dma.src, s.dma.len⟩ :: pending t) ∧
      (i ≠ .xferDone ∨ s.dma.active = false → pending t = pending s ++ accepted s i)

/-- 42_transmit.md, section 6, R178 (D9, D10): while the accelerator is busy, `QCAP` messages into an empty queue are
all accepted, `Len` is then `QCAP`, and the next one is dropped without a change. -/
def Obligations.CapacityIsQcap : Prop :=
  ∀ (ds : List Desc) (s : State), Invariants s → queueEmpty s = true → s.dma.active = true →
    ds.length = s.env.cfg.qcap → (∀ d ∈ ds, d.len ≠ 0) →
      ∃ t, runAll (ds.map fun d => .enqueue d.ref d.len) s = .next t ∧ queueLen t = s.env.cfg.qcap ∧
        queued t = ds ∧ t.env.trace = s.env.trace ∧
        ∀ (r : Ref) (l : Len), l ≠ 0 → exec (.enqueue r l) t = .next t

/-! ### Whole transactions (95_test_vectors.md, section 1) -/

/-- 95_test_vectors.md, E1 and E4, and 41_bus_event_steps.md, section 3, R147 (D4, D6, D16): for every register,
value, and presentations that carry the awaited flags, after the fourth the WRITE is released and `WRITE_COMPLETE`
has been emitted exactly once, last. -/
def Obligations.WriteCompletesAfterFourFlags : Prop :=
  ∀ (register value : Byte) (f1 f2 f3 f4 : FlagVec) (d1 d2 d3 d4 : Byte) (s : State),
    s.halt = none → s.txn.busy = false → s.prioMask < s.env.cfg.pBus →
    observed .sb f1 = true → observed .addr f2 = true → observed .txe f3 = true → observed .btf f4 = true →
      ∃ t, runAll [.beginWrite register value, .busEvent f1 d1, .busEvent f2 d2, .busEvent f3 d3,
          .busEvent f4 d4] s = .next t ∧
        t.txn = { direction := .write, busy := false, step := 4, register := register, writeValue := value,
                  currentAxis := .x, readings := s.txn.readings } ∧
        t.ien = ⟨false, false, false⟩ ∧ t.halt = none ∧
        engineTrace t = engineTrace s ++
          [.clrStatus, .ctlStart, .drWrite (addrByte s.env.cfg .write), .clrAddr, .drWrite register,
           .drWrite value, .ctlStop, .writeComplete]

/-- 95_test_vectors.md, E2 and E5, and 41_bus_event_steps.md, section 4, R153 (D4, D7, D8, D16, D26): for every
eighteen presentations that carry the awaited flags of three axis loops, the READ stays busy until the last, then is
released, and `READ_COMPLETE` is emitted exactly once, last, with the bytes of the sixth, twelfth and eighteenth. -/
def Obligations.ReadCompletesAfterThreeLoops : Prop :=
  ∀ (ps : List (FlagVec × Byte)) (s : State), s.halt = none → s.txn.busy = false →
    s.prioMask < s.env.cfg.pBus →
    ps.length = 18 →
    (∀ (k : Nat) (fl : Flag) (p : FlagVec × Byte),
      ([.sb, .addr, .btf, .sb, .addr, .rxne] ++ [.sb, .addr, .btf, .sb, .addr, .rxne] ++
        [.sb, .addr, .btf, .sb, .addr, .rxne] : List Flag)[k]? = some fl → ps[k]? = some p →
        observed fl p.1 = true) →
      (∀ k, k < 18 → ∃ u, runAll (.beginRead :: (ps.take k).map fun p => .busEvent p.1 p.2) s = .next u ∧
        u.txn.busy = true ∧ u.txn.direction = .read ∧ u.halt = none) ∧
      ∃ (x y z : Byte) (t : State), ps[5]?.map Prod.snd = some x ∧ ps[11]?.map Prod.snd = some y ∧
        ps[17]?.map Prod.snd = some z ∧
        runAll (.beginRead :: ps.map fun p => .busEvent p.1 p.2) s = .next t ∧
        t.txn = { direction := .read, busy := false, step := 6, register := s.env.cfg.axisZ,
                  writeValue := s.txn.writeValue, currentAxis := .z, readings := ⟨x, y, z⟩ } ∧
        t.ien = ⟨false, false, false⟩ ∧ t.halt = none ∧
        engineTrace t = engineTrace s ++
          ([.clrStatus, .ctlStart, .drWrite (addrByte s.env.cfg .write), .clrAddr, .drWrite s.env.cfg.axisX,
            .ctlStart, .drWrite (addrByte s.env.cfg .read), .ctlNack, .clrAddr, .drRead x] ++
           [.ctlStart, .drWrite (addrByte s.env.cfg .write), .clrAddr, .drWrite s.env.cfg.axisY,
            .ctlStart, .drWrite (addrByte s.env.cfg .read), .ctlNack, .clrAddr, .drRead y] ++
           [.ctlStart, .drWrite (addrByte s.env.cfg .write), .clrAddr, .drWrite s.env.cfg.axisZ,
            .ctlStart, .drWrite (addrByte s.env.cfg .read), .ctlNack, .clrAddr, .ctlStop, .drRead z] ++
           [.readComplete x y z])
end

