-- ==== Sys2Proof/Laws/Cells.lean ====
section
/-! SUPPORT. The laws of the sparse cells: read after write, the canonical form is kept, and its uses for message
memory and the ring. -/

namespace Sys2Proof.Machine

section
variable {α : Type} {d : α}

/-- A key below every listed key reads as unlisted. -/
theorem cellGet_of_below {l : List (Nat × α)} {a : Nat} (h : ∀ c ∈ l, a < c.1) : cellGet d l a = d := by
  induction l with
  | nil => rfl
  | cons c rest ih =>
    have hc := h c (by simp)
    have hne : a ≠ c.1 := by omega
    simp only [cellGet, hne, if_false]
    exact ih fun x hx => h x (by simp [hx])

variable [DecidableEq α]

theorem cellsWf_cons {k : Nat} {v : α} {rest : List (Nat × α)} :
    cellsWf d ((k, v) :: rest) = true ↔ v ≠ d ∧ (∀ c ∈ rest, k < c.1) ∧ cellsWf d rest = true := by
  simp [cellsWf, and_assoc]

/-- The keys after a write are old keys or the written one. -/
theorem mem_cellPut {l : List (Nat × α)} {a : Nat} {v : α} {c : Nat × α} (h : c ∈ cellPut d a v l) :
    c ∈ l ∨ c = (a, v) := by
  induction l with
  | nil =>
    simp only [cellPut] at h
    split at h <;> simp_all
  | cons x rest ih =>
    simp only [cellPut] at h
    split at h
    · split at h <;> simp_all
      rcases h with h | h | h <;> simp_all
    · split at h
      · split at h <;> simp_all
        rcases h with h | h <;> simp_all
      · rcases List.mem_cons.1 h with h | h
        · simp [h]
        · rcases ih h with h | h <;> simp [h]

theorem cellPut_wf {l : List (Nat × α)} (a : Nat) (v : α) (h : cellsWf d l = true) :
    cellsWf d (cellPut d a v l) = true := by
  induction l with
  | nil =>
    simp only [cellPut]
    split <;> simp_all [cellsWf]
  | cons x rest ih =>
    obtain ⟨k, w⟩ := x
    obtain ⟨hw, hk, hr⟩ := cellsWf_cons.1 h
    simp only [cellPut]
    split
    · rename_i hlt
      split
      · exact h
      · rename_i hv
        refine cellsWf_cons.2 ⟨hv, fun c hc => ?_, h⟩
        rcases List.mem_cons.1 hc with rfl | hc
        · exact hlt
        · exact Nat.lt_trans hlt (hk c hc)
    · rename_i hlt
      split
      · rename_i heq
        split
        · exact hr
        · rename_i hv
          exact cellsWf_cons.2 ⟨hv, fun c hc => heq ▸ hk c hc, hr⟩
      · rename_i hne
        refine cellsWf_cons.2 ⟨hw, fun c hc => ?_, ih hr⟩
        rcases mem_cellPut hc with hc | rfl
        · exact hk c hc
        · simp only; omega

theorem cellGet_cellPut_same {l : List (Nat × α)} (a : Nat) (v : α) (h : cellsWf d l = true) :
    cellGet d (cellPut d a v l) a = v := by
  induction l with
  | nil =>
    simp only [cellPut]
    split <;> simp_all [cellGet]
  | cons x rest ih =>
    obtain ⟨k, w⟩ := x
    obtain ⟨_, hk, hr⟩ := cellsWf_cons.1 h
    simp only [cellPut]
    split
    · rename_i hlt
      split
      · rename_i hv
        subst hv
        refine cellGet_of_below fun c hc => ?_
        rcases List.mem_cons.1 hc with rfl | hc
        · exact hlt
        · exact Nat.lt_trans hlt (hk c hc)
      · simp [cellGet]
    · split
      · rename_i heq
        split
        · rename_i hv
          subst hv
          exact cellGet_of_below fun c hc => heq ▸ hk c hc
        · simp [cellGet]
      · rename_i hne
        simp only [cellGet, hne, if_false]
        exact ih hr

theorem cellGet_cellPut_other {l : List (Nat × α)} {a b : Nat} (v : α) (h : cellsWf d l = true) (hb : b ≠ a) :
    cellGet d (cellPut d a v l) b = cellGet d l b := by
  induction l with
  | nil =>
    simp only [cellPut]
    split <;> simp [cellGet, hb]
  | cons x rest ih =>
    obtain ⟨k, w⟩ := x
    obtain ⟨_, _, hr⟩ := cellsWf_cons.1 h
    simp only [cellPut]
    split
    · split <;> simp [cellGet, hb]
    · split
      · rename_i heq
        subst heq
        split <;> simp [cellGet, hb]
      · simp only [cellGet]
        split
        · rfl
        · exact ih hr

end

/-- A caller's store reads back (R61). -/
theorem memByte_memStore_same {m : List Host.Cell} (a : Ref) (b : Byte) (h : Memory.wf m = true) :
    memByte (memStore m a b) a = b :=
  cellGet_cellPut_same _ _ (by simp only [Memory.wf, Bool.and_eq_true] at h; exact h.1)

/-- A caller's store leaves every other address alone (R61). -/
theorem memByte_memStore_other {m : List Host.Cell} {a a' : Ref} (b : Byte) (h : Memory.wf m = true)
    (ha : a' ≠ a) : memByte (memStore m a b) a' = memByte m a' :=
  cellGet_cellPut_other _ (by simp only [Memory.wf, Bool.and_eq_true] at h; exact h.1)
    fun e => ha (BitVec.eq_of_toNat_eq e)

/-- A caller's store keeps the canonical form. -/
theorem memStore_wf {m : List Host.Cell} (a : Ref) (b : Byte) (h : Memory.wf m = true) :
    Memory.wf (memStore m a b) = true := by
  simp only [Memory.wf, Bool.and_eq_true, List.all_eq_true, decide_eq_true_eq] at h ⊢
  refine ⟨cellPut_wf _ _ h.1, fun c hc => ?_⟩
  rcases mem_cellPut hc with hc | rfl
  · exact h.2 c hc
  · exact a.isLt

end Sys2Proof.Machine
end

