-- ==== Sys2Proof/Laws/Decode.lean ====
section
/-! SUPPORT. The fields of a packed word and the word of its fields (R90), and what a decoded word looks like. -/

namespace Sys2Proof

/-- The bits of `op ++ a ++ b ++ c`. -/
theorem packWord_bit (op a : Byte) (b : BitVec 16) (c : BitVec 32) (i : Nat) :
    (packWord op a b c).getLsbD i =
      if i < 32 then c.getLsbD i
      else if i - 32 < 16 then b.getLsbD (i - 32)
      else if i - 32 - 16 < 8 then a.getLsbD (i - 32 - 16)
      else op.getLsbD (i - 32 - 16 - 8) := by
  change @BitVec.getLsbD (8 + 8 + 16 + 32) (op ++ a ++ b ++ c) i = _
  rw [BitVec.getLsbD_append, BitVec.getLsbD_append, BitVec.getLsbD_append]

/-- The bits of two bytes side by side. -/
theorem bytePair_bit (x y : Byte) (i : Nat) :
    @BitVec.getLsbD 16 (x ++ y) i = if i < 8 then y.getLsbD i else x.getLsbD (i - 8) := by
  change @BitVec.getLsbD (8 + 8) (x ++ y) i = _
  rw [BitVec.getLsbD_append]

@[simp] theorem opField_packWord (op a : Byte) (b : BitVec 16) (c : BitVec 32) :
    opField (packWord op a b c) = op := by
  apply BitVec.eq_of_getLsbD_eq
  intro i hi
  rw [opField, BitVec.getLsbD_extractLsb', packWord_bit, if_neg (by omega), if_neg (by omega), if_neg (by omega)]
  simp [hi, show 56 + i - 32 - 16 - 8 = i by omega]

@[simp] theorem aField_packWord (op a : Byte) (b : BitVec 16) (c : BitVec 32) :
    aField (packWord op a b c) = a := by
  apply BitVec.eq_of_getLsbD_eq
  intro i hi
  rw [aField, BitVec.getLsbD_extractLsb', packWord_bit, if_neg (by omega), if_neg (by omega), if_pos (by omega)]
  simp [hi, show 48 + i - 32 - 16 = i by omega]

@[simp] theorem bField_packWord (op a : Byte) (b : BitVec 16) (c : BitVec 32) :
    bField (packWord op a b c) = b := by
  apply BitVec.eq_of_getLsbD_eq
  intro i hi
  rw [bField, BitVec.getLsbD_extractLsb', packWord_bit, if_neg (by omega), if_pos (by omega)]
  simp [hi]

@[simp] theorem cField_packWord (op a : Byte) (b : BitVec 16) (c : BitVec 32) :
    cField (packWord op a b c) = c := by
  apply BitVec.eq_of_getLsbD_eq
  intro i hi
  rw [cField, BitVec.getLsbD_extractLsb', packWord_bit, if_pos (by omega)]
  simp [hi]

@[simp] theorem bHigh_packWord (op a : Byte) (b : BitVec 16) (c : BitVec 32) :
    bHigh (packWord op a b c) = b.extractLsb' 8 8 := by
  apply BitVec.eq_of_getLsbD_eq
  intro i hi
  rw [bHigh, BitVec.getLsbD_extractLsb', packWord_bit, if_neg (by omega), if_pos (by omega),
    BitVec.getLsbD_extractLsb', show 40 + i - 32 = 8 + i by omega]

@[simp] theorem bLow_packWord (op a : Byte) (b : BitVec 16) (c : BitVec 32) :
    bLow (packWord op a b c) = b.extractLsb' 0 8 := by
  apply BitVec.eq_of_getLsbD_eq
  intro i hi
  rw [bLow, BitVec.getLsbD_extractLsb', packWord_bit, if_neg (by omega), if_pos (by omega),
    BitVec.getLsbD_extractLsb', show 32 + i - 32 = 0 + i by omega]

@[simp] theorem highByte_pair (x y : Byte) : BitVec.extractLsb' (n := 16) 8 8 (x ++ y) = x := by
  apply BitVec.eq_of_getLsbD_eq
  intro i hi
  rw [BitVec.getLsbD_extractLsb', bytePair_bit, if_neg (by omega)]
  simp [hi]

@[simp] theorem lowByte_pair (x y : Byte) : BitVec.extractLsb' (n := 16) 0 8 (x ++ y) = y := by
  apply BitVec.eq_of_getLsbD_eq
  intro i hi
  rw [BitVec.getLsbD_extractLsb', bytePair_bit, if_pos (by omega)]
  simp [hi]

/-- The four fields cover all 64 bits (R90). -/
theorem packWord_fields (w : Word) : packWord (opField w) (aField w) (bField w) (cField w) = w := by
  apply BitVec.eq_of_getLsbD_eq
  intro i hi
  rw [packWord_bit]
  simp only [opField, aField, bField, cField, BitVec.getLsbD_extractLsb']
  split
  · simp [*]
  · split
    · simp [*, show 32 + (i - 32) = i by omega]
    · split
      · simp [*, show 48 + (i - 32 - 16) = i by omega]
      · simp [show i - 32 - 16 - 8 < 8 by omega, show 56 + (i - 32 - 16 - 8) = i by omega]

/-- `b` is its two bytes. -/
theorem bField_bytes (w : Word) : bField w = bHigh w ++ bLow w := by
  apply BitVec.eq_of_getLsbD_eq
  intro i hi
  rw [bytePair_bit]
  simp only [bField, bHigh, bLow, BitVec.getLsbD_extractLsb']
  split
  · simp [*]
  · simp [hi, show i - 8 < 8 by omega, show 40 + (i - 8) = 32 + i by omega]

/-- The bits of eight bytes, the most significant first (R68). -/
theorem wordOfBytes_bit (b7 b6 b5 b4 b3 b2 b1 b0 : Byte) (i : Nat) :
    (wordOfBytes b7 b6 b5 b4 b3 b2 b1 b0).getLsbD i =
      if i < 8 then b0.getLsbD i else if i - 8 < 8 then b1.getLsbD (i - 8)
      else if i - 8 - 8 < 8 then b2.getLsbD (i - 8 - 8)
      else if i - 8 - 8 - 8 < 8 then b3.getLsbD (i - 8 - 8 - 8)
      else if i - 8 - 8 - 8 - 8 < 8 then b4.getLsbD (i - 8 - 8 - 8 - 8)
      else if i - 8 - 8 - 8 - 8 - 8 < 8 then b5.getLsbD (i - 8 - 8 - 8 - 8 - 8)
      else if i - 8 - 8 - 8 - 8 - 8 - 8 < 8 then b6.getLsbD (i - 8 - 8 - 8 - 8 - 8 - 8)
      else b7.getLsbD (i - 8 - 8 - 8 - 8 - 8 - 8 - 8) := by
  change @BitVec.getLsbD (8 + 8 + 8 + 8 + 8 + 8 + 8 + 8) (b7 ++ b6 ++ b5 ++ b4 ++ b3 ++ b2 ++ b1 ++ b0) i = _
  rw [BitVec.getLsbD_append, BitVec.getLsbD_append, BitVec.getLsbD_append, BitVec.getLsbD_append,
    BitVec.getLsbD_append, BitVec.getLsbD_append, BitVec.getLsbD_append]

/-- A word is the word of its bytes, the most significant first (R68). -/
theorem wordOfBytes_bytesOfWord (w : Word) :
    wordOfBytes (w.extractLsb' 56 8) (w.extractLsb' 48 8) (w.extractLsb' 40 8) (w.extractLsb' 32 8)
      (w.extractLsb' 24 8) (w.extractLsb' 16 8) (w.extractLsb' 8 8) (w.extractLsb' 0 8) = w := by
  apply BitVec.eq_of_getLsbD_eq
  intro i hi
  rw [wordOfBytes_bit]
  simp only [BitVec.getLsbD_extractLsb']
  repeat' split
  all_goals
    rw [decide_eq_true (by omega), Bool.true_and]
    congr 1
    omega

theorem decodeBytes_bytesOfWord (cfg : Config) (w : Word) (rest : List Byte) :
    decodeBytes cfg (bytesOfWord w ++ rest) =
      match decode cfg w with
      | .ok i => .ok (i, rest)
      | .error e => .error e := by
  cases h : decode cfg w <;>
    simp only [bytesOfWord, List.cons_append, List.nil_append, decodeBytes, wordOfBytes_bytesOfWord, h]

end Sys2Proof
end

