-- ==== Sys2Proof/Laws/State.lean ====
section
/-! SUPPORT. The state's fields after each named update, one lemma per field per update. -/

namespace Sys2Proof.Machine

/-! `State.emit` -/

@[simp] theorem State.emit_txn (s : State) (a : Action) : (s.emit a).txn = s.txn := rfl
@[simp] theorem State.emit_ien (s : State) (a : Action) : (s.emit a).ien = s.ien := rfl
@[simp] theorem State.emit_bus (s : State) (a : Action) : (s.emit a).bus = s.bus := rfl
@[simp] theorem State.emit_q (s : State) (a : Action) : (s.emit a).q = s.q := rfl
@[simp] theorem State.emit_dma (s : State) (a : Action) : (s.emit a).dma = s.dma := rfl
@[simp] theorem State.emit_prioMask (s : State) (a : Action) : (s.emit a).prioMask = s.prioMask := rfl
@[simp] theorem State.emit_halt (s : State) (a : Action) : (s.emit a).halt = s.halt := rfl
@[simp] theorem State.emit_env_cfg (s : State) (a : Action) : (s.emit a).env.cfg = s.env.cfg := rfl
@[simp] theorem State.emit_env_inputs (s : State) (a : Action) : (s.emit a).env.inputs = s.env.inputs := rfl
@[simp] theorem State.emit_env_mem (s : State) (a : Action) : (s.emit a).env.mem = s.env.mem := rfl
@[simp] theorem State.emit_env_stale (s : State) (a : Action) : (s.emit a).env.stale = s.env.stale := rfl
@[simp] theorem State.emit_env_freeCount (s : State) (a : Action) : (s.emit a).env.freeCount = s.env.freeCount := rfl
@[simp] theorem State.emit_env_trace (s : State) (a : Action) : (s.emit a).env.trace = s.env.trace ++ [a] := rfl

/-! `State.setStep` -/

@[simp] theorem State.setStep_txn (s : State) (k : StepNo) : (s.setStep k).txn = { s.txn with step := k } := rfl
@[simp] theorem State.setStep_ien (s : State) (k : StepNo) : (s.setStep k).ien = s.ien := rfl
@[simp] theorem State.setStep_bus (s : State) (k : StepNo) : (s.setStep k).bus = s.bus := rfl
@[simp] theorem State.setStep_q (s : State) (k : StepNo) : (s.setStep k).q = s.q := rfl
@[simp] theorem State.setStep_dma (s : State) (k : StepNo) : (s.setStep k).dma = s.dma := rfl
@[simp] theorem State.setStep_prioMask (s : State) (k : StepNo) : (s.setStep k).prioMask = s.prioMask := rfl
@[simp] theorem State.setStep_halt (s : State) (k : StepNo) : (s.setStep k).halt = s.halt := rfl
@[simp] theorem State.setStep_env_cfg (s : State) (k : StepNo) : (s.setStep k).env.cfg = s.env.cfg := rfl
@[simp] theorem State.setStep_env_inputs (s : State) (k : StepNo) : (s.setStep k).env.inputs = s.env.inputs := rfl
@[simp] theorem State.setStep_env_mem (s : State) (k : StepNo) : (s.setStep k).env.mem = s.env.mem := rfl
@[simp] theorem State.setStep_env_stale (s : State) (k : StepNo) : (s.setStep k).env.stale = s.env.stale := rfl
@[simp] theorem State.setStep_env_freeCount (s : State) (k : StepNo) : (s.setStep k).env.freeCount = s.env.freeCount := rfl
@[simp] theorem State.setStep_env_trace (s : State) (k : StepNo) : (s.setStep k).env.trace = s.env.trace := rfl

/-! `State.setMask` -/

@[simp] theorem State.setMask_txn (s : State) (p : Level) : (s.setMask p).txn = s.txn := rfl
@[simp] theorem State.setMask_ien (s : State) (p : Level) : (s.setMask p).ien = s.ien := rfl
@[simp] theorem State.setMask_bus (s : State) (p : Level) : (s.setMask p).bus = s.bus := rfl
@[simp] theorem State.setMask_q (s : State) (p : Level) : (s.setMask p).q = s.q := rfl
@[simp] theorem State.setMask_dma (s : State) (p : Level) : (s.setMask p).dma = s.dma := rfl
@[simp] theorem State.setMask_prioMask (s : State) (p : Level) : (s.setMask p).prioMask = p := rfl
@[simp] theorem State.setMask_halt (s : State) (p : Level) : (s.setMask p).halt = s.halt := rfl
@[simp] theorem State.setMask_env_cfg (s : State) (p : Level) : (s.setMask p).env.cfg = s.env.cfg := rfl
@[simp] theorem State.setMask_env_inputs (s : State) (p : Level) : (s.setMask p).env.inputs = s.env.inputs := rfl
@[simp] theorem State.setMask_env_mem (s : State) (p : Level) : (s.setMask p).env.mem = s.env.mem := rfl
@[simp] theorem State.setMask_env_stale (s : State) (p : Level) : (s.setMask p).env.stale = s.env.stale := rfl
@[simp] theorem State.setMask_env_freeCount (s : State) (p : Level) : (s.setMask p).env.freeCount = s.env.freeCount := rfl
@[simp] theorem State.setMask_env_trace (s : State) (p : Level) : (s.setMask p).env.trace = s.env.trace := rfl

/-! `State.setTx` -/

@[simp] theorem State.setTx_txn (s : State) (b : Bool) : (s.setTx b).txn = s.txn := rfl
@[simp] theorem State.setTx_ien (s : State) (b : Bool) : (s.setTx b).ien = { s.ien with tx := b } := rfl
@[simp] theorem State.setTx_bus (s : State) (b : Bool) : (s.setTx b).bus = s.bus := rfl
@[simp] theorem State.setTx_q (s : State) (b : Bool) : (s.setTx b).q = s.q := rfl
@[simp] theorem State.setTx_dma (s : State) (b : Bool) : (s.setTx b).dma = s.dma := rfl
@[simp] theorem State.setTx_prioMask (s : State) (b : Bool) : (s.setTx b).prioMask = s.prioMask := rfl
@[simp] theorem State.setTx_halt (s : State) (b : Bool) : (s.setTx b).halt = s.halt := rfl
@[simp] theorem State.setTx_env_cfg (s : State) (b : Bool) : (s.setTx b).env.cfg = s.env.cfg := rfl
@[simp] theorem State.setTx_env_inputs (s : State) (b : Bool) : (s.setTx b).env.inputs = s.env.inputs := rfl
@[simp] theorem State.setTx_env_mem (s : State) (b : Bool) : (s.setTx b).env.mem = s.env.mem := rfl
@[simp] theorem State.setTx_env_stale (s : State) (b : Bool) : (s.setTx b).env.stale = s.env.stale := rfl
@[simp] theorem State.setTx_env_freeCount (s : State) (b : Bool) : (s.setTx b).env.freeCount = s.env.freeCount := rfl
@[simp] theorem State.setTx_env_trace (s : State) (b : Bool) : (s.setTx b).env.trace = s.env.trace := rfl

/-! `State.setRx` -/

@[simp] theorem State.setRx_txn (s : State) (b : Bool) : (s.setRx b).txn = s.txn := rfl
@[simp] theorem State.setRx_ien (s : State) (b : Bool) : (s.setRx b).ien = { s.ien with rx := b } := rfl
@[simp] theorem State.setRx_bus (s : State) (b : Bool) : (s.setRx b).bus = s.bus := rfl
@[simp] theorem State.setRx_q (s : State) (b : Bool) : (s.setRx b).q = s.q := rfl
@[simp] theorem State.setRx_dma (s : State) (b : Bool) : (s.setRx b).dma = s.dma := rfl
@[simp] theorem State.setRx_prioMask (s : State) (b : Bool) : (s.setRx b).prioMask = s.prioMask := rfl
@[simp] theorem State.setRx_halt (s : State) (b : Bool) : (s.setRx b).halt = s.halt := rfl
@[simp] theorem State.setRx_env_cfg (s : State) (b : Bool) : (s.setRx b).env.cfg = s.env.cfg := rfl
@[simp] theorem State.setRx_env_inputs (s : State) (b : Bool) : (s.setRx b).env.inputs = s.env.inputs := rfl
@[simp] theorem State.setRx_env_mem (s : State) (b : Bool) : (s.setRx b).env.mem = s.env.mem := rfl
@[simp] theorem State.setRx_env_stale (s : State) (b : Bool) : (s.setRx b).env.stale = s.env.stale := rfl
@[simp] theorem State.setRx_env_freeCount (s : State) (b : Bool) : (s.setRx b).env.freeCount = s.env.freeCount := rfl
@[simp] theorem State.setRx_env_trace (s : State) (b : Bool) : (s.setRx b).env.trace = s.env.trace := rfl

/-! `State.setAck` -/

@[simp] theorem State.setAck_txn (s : State) (b : Bool) : (s.setAck b).txn = s.txn := rfl
@[simp] theorem State.setAck_ien (s : State) (b : Bool) : (s.setAck b).ien = s.ien := rfl
@[simp] theorem State.setAck_bus (s : State) (b : Bool) : (s.setAck b).bus = { s.bus with ack := b } := rfl
@[simp] theorem State.setAck_q (s : State) (b : Bool) : (s.setAck b).q = s.q := rfl
@[simp] theorem State.setAck_dma (s : State) (b : Bool) : (s.setAck b).dma = s.dma := rfl
@[simp] theorem State.setAck_prioMask (s : State) (b : Bool) : (s.setAck b).prioMask = s.prioMask := rfl
@[simp] theorem State.setAck_halt (s : State) (b : Bool) : (s.setAck b).halt = s.halt := rfl
@[simp] theorem State.setAck_env_cfg (s : State) (b : Bool) : (s.setAck b).env.cfg = s.env.cfg := rfl
@[simp] theorem State.setAck_env_inputs (s : State) (b : Bool) : (s.setAck b).env.inputs = s.env.inputs := rfl
@[simp] theorem State.setAck_env_mem (s : State) (b : Bool) : (s.setAck b).env.mem = s.env.mem := rfl
@[simp] theorem State.setAck_env_stale (s : State) (b : Bool) : (s.setAck b).env.stale = s.env.stale := rfl
@[simp] theorem State.setAck_env_freeCount (s : State) (b : Bool) : (s.setAck b).env.freeCount = s.env.freeCount := rfl
@[simp] theorem State.setAck_env_trace (s : State) (b : Bool) : (s.setAck b).env.trace = s.env.trace := rfl

/-! `State.setPend` -/

@[simp] theorem State.setPend_txn (s : State) (b : Bool) : (s.setPend b).txn = s.txn := rfl
@[simp] theorem State.setPend_ien (s : State) (b : Bool) : (s.setPend b).ien = s.ien := rfl
@[simp] theorem State.setPend_bus (s : State) (b : Bool) : (s.setPend b).bus = { s.bus with pend := b } := rfl
@[simp] theorem State.setPend_q (s : State) (b : Bool) : (s.setPend b).q = s.q := rfl
@[simp] theorem State.setPend_dma (s : State) (b : Bool) : (s.setPend b).dma = s.dma := rfl
@[simp] theorem State.setPend_prioMask (s : State) (b : Bool) : (s.setPend b).prioMask = s.prioMask := rfl
@[simp] theorem State.setPend_halt (s : State) (b : Bool) : (s.setPend b).halt = s.halt := rfl
@[simp] theorem State.setPend_env_cfg (s : State) (b : Bool) : (s.setPend b).env.cfg = s.env.cfg := rfl
@[simp] theorem State.setPend_env_inputs (s : State) (b : Bool) : (s.setPend b).env.inputs = s.env.inputs := rfl
@[simp] theorem State.setPend_env_mem (s : State) (b : Bool) : (s.setPend b).env.mem = s.env.mem := rfl
@[simp] theorem State.setPend_env_stale (s : State) (b : Bool) : (s.setPend b).env.stale = s.env.stale := rfl
@[simp] theorem State.setPend_env_freeCount (s : State) (b : Bool) : (s.setPend b).env.freeCount = s.env.freeCount := rfl
@[simp] theorem State.setPend_env_trace (s : State) (b : Bool) : (s.setPend b).env.trace = s.env.trace := rfl

/-! `State.latch` -/

@[simp] theorem State.latch_txn (s : State) (f : FlagVec) (d : Byte) : (s.latch f d).txn = s.txn := rfl
@[simp] theorem State.latch_ien (s : State) (f : FlagVec) (d : Byte) : (s.latch f d).ien = s.ien := rfl
@[simp] theorem State.latch_bus (s : State) (f : FlagVec) (d : Byte) : (s.latch f d).bus = { ack := s.bus.ack, flags := f, data := d, pend := true } := rfl
@[simp] theorem State.latch_q (s : State) (f : FlagVec) (d : Byte) : (s.latch f d).q = s.q := rfl
@[simp] theorem State.latch_dma (s : State) (f : FlagVec) (d : Byte) : (s.latch f d).dma = s.dma := rfl
@[simp] theorem State.latch_prioMask (s : State) (f : FlagVec) (d : Byte) : (s.latch f d).prioMask = s.prioMask := rfl
@[simp] theorem State.latch_halt (s : State) (f : FlagVec) (d : Byte) : (s.latch f d).halt = s.halt := rfl
@[simp] theorem State.latch_env_cfg (s : State) (f : FlagVec) (d : Byte) : (s.latch f d).env.cfg = s.env.cfg := rfl
@[simp] theorem State.latch_env_inputs (s : State) (f : FlagVec) (d : Byte) : (s.latch f d).env.inputs = s.env.inputs := rfl
@[simp] theorem State.latch_env_mem (s : State) (f : FlagVec) (d : Byte) : (s.latch f d).env.mem = s.env.mem := rfl
@[simp] theorem State.latch_env_stale (s : State) (f : FlagVec) (d : Byte) : (s.latch f d).env.stale = s.env.stale := rfl
@[simp] theorem State.latch_env_freeCount (s : State) (f : FlagVec) (d : Byte) : (s.latch f d).env.freeCount = s.env.freeCount := rfl
@[simp] theorem State.latch_env_trace (s : State) (f : FlagVec) (d : Byte) : (s.latch f d).env.trace = s.env.trace := rfl

/-! `State.storeReading` -/

@[simp] theorem State.storeReading_txn (s : State) (d : Byte) : (s.storeReading d).txn = { s.txn with readings := s.txn.readings.set d s.txn.currentAxis } := rfl
@[simp] theorem State.storeReading_ien (s : State) (d : Byte) : (s.storeReading d).ien = s.ien := rfl
@[simp] theorem State.storeReading_bus (s : State) (d : Byte) : (s.storeReading d).bus = s.bus := rfl
@[simp] theorem State.storeReading_q (s : State) (d : Byte) : (s.storeReading d).q = s.q := rfl
@[simp] theorem State.storeReading_dma (s : State) (d : Byte) : (s.storeReading d).dma = s.dma := rfl
@[simp] theorem State.storeReading_prioMask (s : State) (d : Byte) : (s.storeReading d).prioMask = s.prioMask := rfl
@[simp] theorem State.storeReading_halt (s : State) (d : Byte) : (s.storeReading d).halt = s.halt := rfl
@[simp] theorem State.storeReading_env_cfg (s : State) (d : Byte) : (s.storeReading d).env.cfg = s.env.cfg := rfl
@[simp] theorem State.storeReading_env_inputs (s : State) (d : Byte) : (s.storeReading d).env.inputs = s.env.inputs := rfl
@[simp] theorem State.storeReading_env_mem (s : State) (d : Byte) : (s.storeReading d).env.mem = s.env.mem := rfl
@[simp] theorem State.storeReading_env_stale (s : State) (d : Byte) : (s.storeReading d).env.stale = s.env.stale := rfl
@[simp] theorem State.storeReading_env_freeCount (s : State) (d : Byte) : (s.storeReading d).env.freeCount = s.env.freeCount := rfl
@[simp] theorem State.storeReading_env_trace (s : State) (d : Byte) : (s.storeReading d).env.trace = s.env.trace := rfl

/-! `State.selectAxis` -/

@[simp] theorem State.selectAxis_txn (s : State) (a : Axis) : (s.selectAxis a).txn = { s.txn with currentAxis := a, register := axisReg s.env.cfg a } := rfl
@[simp] theorem State.selectAxis_ien (s : State) (a : Axis) : (s.selectAxis a).ien = s.ien := rfl
@[simp] theorem State.selectAxis_bus (s : State) (a : Axis) : (s.selectAxis a).bus = s.bus := rfl
@[simp] theorem State.selectAxis_q (s : State) (a : Axis) : (s.selectAxis a).q = s.q := rfl
@[simp] theorem State.selectAxis_dma (s : State) (a : Axis) : (s.selectAxis a).dma = s.dma := rfl
@[simp] theorem State.selectAxis_prioMask (s : State) (a : Axis) : (s.selectAxis a).prioMask = s.prioMask := rfl
@[simp] theorem State.selectAxis_halt (s : State) (a : Axis) : (s.selectAxis a).halt = s.halt := rfl
@[simp] theorem State.selectAxis_env_cfg (s : State) (a : Axis) : (s.selectAxis a).env.cfg = s.env.cfg := rfl
@[simp] theorem State.selectAxis_env_inputs (s : State) (a : Axis) : (s.selectAxis a).env.inputs = s.env.inputs := rfl
@[simp] theorem State.selectAxis_env_mem (s : State) (a : Axis) : (s.selectAxis a).env.mem = s.env.mem := rfl
@[simp] theorem State.selectAxis_env_stale (s : State) (a : Axis) : (s.selectAxis a).env.stale = s.env.stale := rfl
@[simp] theorem State.selectAxis_env_freeCount (s : State) (a : Axis) : (s.selectAxis a).env.freeCount = s.env.freeCount := rfl
@[simp] theorem State.selectAxis_env_trace (s : State) (a : Axis) : (s.selectAxis a).env.trace = s.env.trace := rfl

/-! `State.setInputs` -/

@[simp] theorem State.setInputs_txn (s : State) (l : List Input) : (s.setInputs l).txn = s.txn := rfl
@[simp] theorem State.setInputs_ien (s : State) (l : List Input) : (s.setInputs l).ien = s.ien := rfl
@[simp] theorem State.setInputs_bus (s : State) (l : List Input) : (s.setInputs l).bus = s.bus := rfl
@[simp] theorem State.setInputs_q (s : State) (l : List Input) : (s.setInputs l).q = s.q := rfl
@[simp] theorem State.setInputs_dma (s : State) (l : List Input) : (s.setInputs l).dma = s.dma := rfl
@[simp] theorem State.setInputs_prioMask (s : State) (l : List Input) : (s.setInputs l).prioMask = s.prioMask := rfl
@[simp] theorem State.setInputs_halt (s : State) (l : List Input) : (s.setInputs l).halt = s.halt := rfl
@[simp] theorem State.setInputs_env_cfg (s : State) (l : List Input) : (s.setInputs l).env.cfg = s.env.cfg := rfl
@[simp] theorem State.setInputs_env_inputs (s : State) (l : List Input) : (s.setInputs l).env.inputs = l := rfl
@[simp] theorem State.setInputs_env_mem (s : State) (l : List Input) : (s.setInputs l).env.mem = s.env.mem := rfl
@[simp] theorem State.setInputs_env_stale (s : State) (l : List Input) : (s.setInputs l).env.stale = s.env.stale := rfl
@[simp] theorem State.setInputs_env_freeCount (s : State) (l : List Input) : (s.setInputs l).env.freeCount = s.env.freeCount := rfl
@[simp] theorem State.setInputs_env_trace (s : State) (l : List Input) : (s.setInputs l).env.trace = s.env.trace := rfl

/-! `State.useFree` -/

@[simp] theorem State.useFree_txn (s : State) (n : Nat) : (s.useFree n).txn = s.txn := rfl
@[simp] theorem State.useFree_ien (s : State) (n : Nat) : (s.useFree n).ien = s.ien := rfl
@[simp] theorem State.useFree_bus (s : State) (n : Nat) : (s.useFree n).bus = s.bus := rfl
@[simp] theorem State.useFree_q (s : State) (n : Nat) : (s.useFree n).q = s.q := rfl
@[simp] theorem State.useFree_dma (s : State) (n : Nat) : (s.useFree n).dma = s.dma := rfl
@[simp] theorem State.useFree_prioMask (s : State) (n : Nat) : (s.useFree n).prioMask = s.prioMask := rfl
@[simp] theorem State.useFree_halt (s : State) (n : Nat) : (s.useFree n).halt = s.halt := rfl
@[simp] theorem State.useFree_env_cfg (s : State) (n : Nat) : (s.useFree n).env.cfg = s.env.cfg := rfl
@[simp] theorem State.useFree_env_inputs (s : State) (n : Nat) : (s.useFree n).env.inputs = s.env.inputs := rfl
@[simp] theorem State.useFree_env_mem (s : State) (n : Nat) : (s.useFree n).env.mem = s.env.mem := rfl
@[simp] theorem State.useFree_env_stale (s : State) (n : Nat) : (s.useFree n).env.stale = s.env.stale := rfl
@[simp] theorem State.useFree_env_freeCount (s : State) (n : Nat) : (s.useFree n).env.freeCount = s.env.freeCount + n := rfl
@[simp] theorem State.useFree_env_trace (s : State) (n : Nat) : (s.useFree n).env.trace = s.env.trace := rfl

/-! `raiseFatal` -/

@[simp] theorem raiseFatal_txn (c : Cause) (s : State) : (raiseFatal c s).txn = s.txn := rfl
@[simp] theorem raiseFatal_ien (c : Cause) (s : State) : (raiseFatal c s).ien = s.ien := rfl
@[simp] theorem raiseFatal_bus (c : Cause) (s : State) : (raiseFatal c s).bus = s.bus := rfl
@[simp] theorem raiseFatal_q (c : Cause) (s : State) : (raiseFatal c s).q = s.q := rfl
@[simp] theorem raiseFatal_dma (c : Cause) (s : State) : (raiseFatal c s).dma = s.dma := rfl
@[simp] theorem raiseFatal_prioMask (c : Cause) (s : State) : (raiseFatal c s).prioMask = s.prioMask := rfl
@[simp] theorem raiseFatal_halt (c : Cause) (s : State) : (raiseFatal c s).halt = some c := rfl
@[simp] theorem raiseFatal_env_cfg (c : Cause) (s : State) : (raiseFatal c s).env.cfg = s.env.cfg := rfl
@[simp] theorem raiseFatal_env_inputs (c : Cause) (s : State) : (raiseFatal c s).env.inputs = s.env.inputs := rfl
@[simp] theorem raiseFatal_env_mem (c : Cause) (s : State) : (raiseFatal c s).env.mem = s.env.mem := rfl
@[simp] theorem raiseFatal_env_stale (c : Cause) (s : State) : (raiseFatal c s).env.stale = s.env.stale := rfl
@[simp] theorem raiseFatal_env_freeCount (c : Cause) (s : State) : (raiseFatal c s).env.freeCount = s.env.freeCount := rfl
@[simp] theorem raiseFatal_env_trace (c : Cause) (s : State) : (raiseFatal c s).env.trace = s.env.trace ++ [.fatal c] := rfl

/-! `release` -/

@[simp] theorem release_txn (s : State) : (release s).txn = { s.txn with busy := false } := rfl
@[simp] theorem release_ien (s : State) : (release s).ien = ⟨false, false, false⟩ := rfl
@[simp] theorem release_bus (s : State) : (release s).bus = s.bus := rfl
@[simp] theorem release_q (s : State) : (release s).q = s.q := rfl
@[simp] theorem release_dma (s : State) : (release s).dma = s.dma := rfl
@[simp] theorem release_prioMask (s : State) : (release s).prioMask = s.prioMask := rfl
@[simp] theorem release_halt (s : State) : (release s).halt = s.halt := rfl
@[simp] theorem release_env_cfg (s : State) : (release s).env.cfg = s.env.cfg := rfl
@[simp] theorem release_env_inputs (s : State) : (release s).env.inputs = s.env.inputs := rfl
@[simp] theorem release_env_mem (s : State) : (release s).env.mem = s.env.mem := rfl
@[simp] theorem release_env_stale (s : State) : (release s).env.stale = s.env.stale := rfl
@[simp] theorem release_env_freeCount (s : State) : (release s).env.freeCount = s.env.freeCount := rfl
@[simp] theorem release_env_trace (s : State) : (release s).env.trace = s.env.trace := rfl

/-! `acquireBody` -/

@[simp] theorem acquireBody_txn (d : Direction) (s : State) : (acquireBody d s).txn = { s.txn with direction := d, step := 0, currentAxis := .x, busy := true } := rfl
@[simp] theorem acquireBody_ien (d : Direction) (s : State) : (acquireBody d s).ien = ⟨true, decide (d = .write), false⟩ := rfl
@[simp] theorem acquireBody_bus (d : Direction) (s : State) : (acquireBody d s).bus = { s.bus with flags := 0, data := 0, pend := false } := rfl
@[simp] theorem acquireBody_q (d : Direction) (s : State) : (acquireBody d s).q = s.q := rfl
@[simp] theorem acquireBody_dma (d : Direction) (s : State) : (acquireBody d s).dma = s.dma := rfl
@[simp] theorem acquireBody_prioMask (d : Direction) (s : State) : (acquireBody d s).prioMask = s.prioMask := rfl
@[simp] theorem acquireBody_halt (d : Direction) (s : State) : (acquireBody d s).halt = s.halt := rfl
@[simp] theorem acquireBody_env_cfg (d : Direction) (s : State) : (acquireBody d s).env.cfg = s.env.cfg := rfl
@[simp] theorem acquireBody_env_inputs (d : Direction) (s : State) : (acquireBody d s).env.inputs = s.env.inputs := rfl
@[simp] theorem acquireBody_env_mem (d : Direction) (s : State) : (acquireBody d s).env.mem = s.env.mem := rfl
@[simp] theorem acquireBody_env_stale (d : Direction) (s : State) : (acquireBody d s).env.stale = s.env.stale := rfl
@[simp] theorem acquireBody_env_freeCount (d : Direction) (s : State) : (acquireBody d s).env.freeCount = s.env.freeCount := rfl
@[simp] theorem acquireBody_env_trace (d : Direction) (s : State) : (acquireBody d s).env.trace = s.env.trace ++ [.clrStatus] := rfl

/-! `appendDesc` -/

@[simp] theorem appendDesc_txn (d : Desc) (s : State) : (appendDesc d s).txn = s.txn := rfl
@[simp] theorem appendDesc_ien (d : Desc) (s : State) : (appendDesc d s).ien = s.ien := rfl
@[simp] theorem appendDesc_bus (d : Desc) (s : State) : (appendDesc d s).bus = s.bus := rfl
@[simp] theorem appendDesc_q (d : Desc) (s : State) : (appendDesc d s).q = { s.q with slots := cellPut noDesc s.q.tail d s.q.slots, tail := ringNext s.env.cfg s.q.tail } := rfl
@[simp] theorem appendDesc_dma (d : Desc) (s : State) : (appendDesc d s).dma = s.dma := rfl
@[simp] theorem appendDesc_prioMask (d : Desc) (s : State) : (appendDesc d s).prioMask = s.prioMask := rfl
@[simp] theorem appendDesc_halt (d : Desc) (s : State) : (appendDesc d s).halt = s.halt := rfl
@[simp] theorem appendDesc_env_cfg (d : Desc) (s : State) : (appendDesc d s).env.cfg = s.env.cfg := rfl
@[simp] theorem appendDesc_env_inputs (d : Desc) (s : State) : (appendDesc d s).env.inputs = s.env.inputs := rfl
@[simp] theorem appendDesc_env_mem (d : Desc) (s : State) : (appendDesc d s).env.mem = s.env.mem := rfl
@[simp] theorem appendDesc_env_stale (d : Desc) (s : State) : (appendDesc d s).env.stale = s.env.stale := rfl
@[simp] theorem appendDesc_env_freeCount (d : Desc) (s : State) : (appendDesc d s).env.freeCount = s.env.freeCount := rfl
@[simp] theorem appendDesc_env_trace (d : Desc) (s : State) : (appendDesc d s).env.trace = s.env.trace := rfl

/-! `startNext` -/

@[simp] theorem startNext_txn (s : State) : (startNext s).txn = s.txn := rfl
@[simp] theorem startNext_ien (s : State) : (startNext s).ien = s.ien := rfl
@[simp] theorem startNext_bus (s : State) : (startNext s).bus = s.bus := rfl
@[simp] theorem startNext_q (s : State) : (startNext s).q = { s.q with head := ringNext s.env.cfg s.q.head } := rfl
@[simp] theorem startNext_dma (s : State) : (startNext s).dma = { s.dma with src := (slotAt s s.q.head).ref, len := (slotAt s s.q.head).len, active := true } := rfl
@[simp] theorem startNext_prioMask (s : State) : (startNext s).prioMask = s.prioMask := rfl
@[simp] theorem startNext_halt (s : State) : (startNext s).halt = s.halt := rfl
@[simp] theorem startNext_env_cfg (s : State) : (startNext s).env.cfg = s.env.cfg := rfl
@[simp] theorem startNext_env_inputs (s : State) : (startNext s).env.inputs = s.env.inputs := rfl
@[simp] theorem startNext_env_mem (s : State) : (startNext s).env.mem = s.env.mem := rfl
@[simp] theorem startNext_env_stale (s : State) : (startNext s).env.stale = s.env.stale := rfl
@[simp] theorem startNext_env_freeCount (s : State) : (startNext s).env.freeCount = s.env.freeCount := rfl
@[simp] theorem startNext_env_trace (s : State) : (startNext s).env.trace = s.env.trace ++ [.dmaStart (slotAt s s.q.head).ref (slotAt s s.q.head).len] := rfl

end Sys2Proof.Machine
end

