-- ==== Sys2Proof/Laws/Delivery.lean ====
section
/-! SUPPORT. What the two handlers and `Deliver()` can do, said once: each handler is a function of its own side of
the state and changes nothing on the other (R196), and `Deliver()` runs each at most once (R194). -/

namespace Sys2Proof.Machine

/-- The surroundings with nothing in them but the parameters. -/
def bareEnv (cfg : Config) : Env :=
  { cfg := cfg, inputs := [], mem := [], stale := [], freeCount := 0, trace := [] }

/-- The bus engine's side of a state, the rest blank. -/
def engineSide (s : State) : State :=
  { s with q := ⟨0, 0, []⟩, dma := ⟨0, 0, false, false⟩, prioMask := 0, env := bareEnv s.env.cfg }

/-- A state with the engine's fields of `r`, `r`'s output appended. -/
def withEngine (s r : State) : State :=
  { s with txn := r.txn, ien := r.ien, bus := r.bus, halt := r.halt,
           env := { s.env with trace := s.env.trace ++ r.env.trace } }

/-- The bus handler reads and writes the engine's side only (R196). -/
theorem onBusEvent_local (f : FlagVec) (d : Byte) (s : State) :
    onBusEvent f d s = withEngine s (onBusEvent f d (engineSide s)) := by
  have hs : s = withEngine s (engineSide s) := by simp [withEngine, engineSide, bareEnv]
  unfold onBusEvent stepW1 stepW2 stepW3 stepW4 stepRd1 stepRd2 stepRd3 stepRd4 stepRd5 stepRd6 onFlag
  simp only [engineSide]
  repeat' split
  all_goals
    first
      | exact hs
      | (clear hs; simp [*, withEngine, bareEnv, raiseFatal, release, State.emit, State.setStep, State.setTx, State.setRx,
          State.setAck, State.storeReading, State.selectAxis])

@[simp] theorem engineSide_txn (s : State) : (engineSide s).txn = s.txn := rfl
@[simp] theorem engineSide_ien (s : State) : (engineSide s).ien = s.ien := rfl
@[simp] theorem engineSide_bus (s : State) : (engineSide s).bus = s.bus := rfl
@[simp] theorem engineSide_halt (s : State) : (engineSide s).halt = s.halt := rfl

@[simp] theorem onBusEvent_q (f : FlagVec) (d : Byte) (s : State) : (onBusEvent f d s).q = s.q := by
  rw [onBusEvent_local]; rfl
@[simp] theorem onBusEvent_dma (f : FlagVec) (d : Byte) (s : State) : (onBusEvent f d s).dma = s.dma := by
  rw [onBusEvent_local]; rfl
@[simp] theorem onBusEvent_prioMask (f : FlagVec) (d : Byte) (s : State) :
    (onBusEvent f d s).prioMask = s.prioMask := by
  rw [onBusEvent_local]; rfl
@[simp] theorem onBusEvent_env_cfg (f : FlagVec) (d : Byte) (s : State) :
    (onBusEvent f d s).env.cfg = s.env.cfg := by
  rw [onBusEvent_local]; rfl
@[simp] theorem onBusEvent_env_inputs (f : FlagVec) (d : Byte) (s : State) :
    (onBusEvent f d s).env.inputs = s.env.inputs := by
  rw [onBusEvent_local]; rfl
@[simp] theorem onBusEvent_env_mem (f : FlagVec) (d : Byte) (s : State) :
    (onBusEvent f d s).env.mem = s.env.mem := by
  rw [onBusEvent_local]; rfl
@[simp] theorem onBusEvent_env_stale (f : FlagVec) (d : Byte) (s : State) :
    (onBusEvent f d s).env.stale = s.env.stale := by
  rw [onBusEvent_local]; rfl
@[simp] theorem onBusEvent_env_freeCount (f : FlagVec) (d : Byte) (s : State) :
    (onBusEvent f d s).env.freeCount = s.env.freeCount := by
  rw [onBusEvent_local]; rfl

/-- The output of a run of the bus handler from a bare engine side. -/
theorem onBusEvent_trace (f : FlagVec) (d : Byte) (s : State) :
    (onBusEvent f d s).env.trace = s.env.trace ++ (onBusEvent f d (engineSide s)).env.trace := by
  rw [onBusEvent_local]; rfl

/-- The bus handler keeps the latch's flags, data and pending bit; a step may clear `bus.ack` (R31). -/
theorem onBusEvent_latch (f : FlagVec) (d : Byte) (s : State) :
    (onBusEvent f d s).bus.flags = s.bus.flags ∧ (onBusEvent f d s).bus.data = s.bus.data ∧
      (onBusEvent f d s).bus.pend = s.bus.pend ∧
      ((onBusEvent f d s).bus.ack = true → s.bus.ack = true) := by
  unfold onBusEvent stepW1 stepW2 stepW3 stepW4 stepRd1 stepRd2 stepRd3 stepRd4 stepRd5 stepRd6 onFlag
  repeat' split
  all_goals cases h : s.txn.currentAxis <;> simp [h, nextAxis]

/-- The bus handler never ends a halt; it enters one only with cause SEQUENCING (R141). -/
theorem onBusEvent_halt (f : FlagVec) (d : Byte) (s : State) :
    (onBusEvent f d s).halt = s.halt ∨
      ((onBusEvent f d s).halt = some .sequencing ∧
        (s.txn.busy = false ∨ stepAt s.txn.direction s.txn.step = none)) := by
  unfold onBusEvent stepW1 stepW2 stepW3 stepW4 stepRd1 stepRd2 stepRd3 stepRd4 stepRd5 stepRd6 onFlag
  repeat' split
  all_goals cases h : s.txn.currentAxis <;> simp_all [nextAxis]

/-- No action of the bus handler is the transmit path's. -/
theorem onBusEvent_out_engine (f : FlagVec) (d : Byte) (s : State) :
    ∀ a ∈ (onBusEvent f d (engineSide s)).env.trace, a.isTransmit = false := by
  unfold onBusEvent stepW1 stepW2 stepW3 stepW4 stepRd1 stepRd2 stepRd3 stepRd4 stepRd5 stepRd6 onFlag
  repeat' split
  all_goals cases h : s.txn.currentAxis <;> simp [h, nextAxis, engineSide, bareEnv, Action.isTransmit]

theorem onBusEvent_transmitTrace (f : FlagVec) (d : Byte) (s : State) :
    transmitTrace (onBusEvent f d s) = transmitTrace s := by
  have h := onBusEvent_out_engine f d s
  simp only [transmitTrace, onBusEvent_trace f d s, List.filter_append, List.append_right_eq_self,
    List.filter_eq_nil_iff]
  intro a ha
  simp [h a ha]

/-! ### The completion handler -/

@[simp] theorem otc_txn (s : State) : (onTransferComplete s).txn = s.txn := by
  simp only [onTransferComplete]; split <;> simp
@[simp] theorem otc_ien (s : State) : (onTransferComplete s).ien = s.ien := by
  simp only [onTransferComplete]; split <;> simp
@[simp] theorem otc_bus (s : State) : (onTransferComplete s).bus = s.bus := by
  simp only [onTransferComplete]; split <;> simp
@[simp] theorem otc_prioMask (s : State) : (onTransferComplete s).prioMask = s.prioMask := by
  simp only [onTransferComplete]; split <;> simp
@[simp] theorem otc_halt (s : State) : (onTransferComplete s).halt = s.halt := by
  simp only [onTransferComplete]; split <;> simp
@[simp] theorem otc_env_cfg (s : State) : (onTransferComplete s).env.cfg = s.env.cfg := by
  simp only [onTransferComplete]; split <;> simp
@[simp] theorem otc_env_inputs (s : State) : (onTransferComplete s).env.inputs = s.env.inputs := by
  simp only [onTransferComplete]; split <;> simp
@[simp] theorem otc_env_mem (s : State) : (onTransferComplete s).env.mem = s.env.mem := by
  simp only [onTransferComplete]; split <;> simp
@[simp] theorem otc_env_stale (s : State) : (onTransferComplete s).env.stale = s.env.stale := by
  simp only [onTransferComplete]; split <;> simp
@[simp] theorem otc_env_freeCount (s : State) : (onTransferComplete s).env.freeCount = s.env.freeCount := by
  simp only [onTransferComplete]; split <;> simp
@[simp] theorem otc_dma_tc (s : State) : (onTransferComplete s).dma.tc = false := by
  simp only [onTransferComplete]; split <;> simp

/-- Whether the completion handler starts the next message (R175). -/
def startsNext (s : State) : Bool := !queueEmpty s && !s.dma.active

/-- The acknowledge of the completion handler. -/
def acked (s : State) : State := State.emit { s with dma := { s.dma with tc := false } } .dmaAck

/-- The completion handler is the acknowledge, then a start if there is one to make (R175). -/
theorem otc_eq (s : State) :
    onTransferComplete s = if startsNext s then startNext (acked s) else acked s := by
  have hc : (!queueEmpty (acked s) && idle (acked s)) = startsNext s := by
    simp [startsNext, queueEmpty, idle, acked]
    rfl
  change (if !queueEmpty (acked s) && idle (acked s) then startNext (acked s) else acked s) = _
  rw [hc]

/-- What the completion handler writes (R175). -/
theorem otc_effect (s : State) :
    (onTransferComplete s).q =
      (if startsNext s then { s.q with head := ringNext s.env.cfg s.q.head } else s.q) ∧
    (onTransferComplete s).dma =
      (if startsNext s then ⟨(slotAt s s.q.head).ref, (slotAt s s.q.head).len, true, false⟩
       else { s.dma with tc := false }) ∧
    (onTransferComplete s).env.trace =
      s.env.trace ++ .dmaAck ::
        (if startsNext s then [.dmaStart (slotAt s s.q.head).ref (slotAt s s.q.head).len] else []) := by
  rw [otc_eq]
  split <;> simp [acked, slotAt]

theorem otc_engineTrace (s : State) : engineTrace (onTransferComplete s) = engineTrace s := by
  simp only [engineTrace, (otc_effect s).2.2]
  split <;> simp [Action.isTransmit]

/-- The completion handler reads and writes the transmit side only (R196). -/
theorem otc_congr {s t : State} (hq : t.q = s.q) (hd : t.dma = s.dma) (hc : t.env.cfg = s.env.cfg) :
    (onTransferComplete t).q = (onTransferComplete s).q ∧
      (onTransferComplete t).dma = (onTransferComplete s).dma := by
  have h1 : startsNext t = startsNext s := by simp [startsNext, queueEmpty, hq, hd]
  rw [(otc_effect t).1, (otc_effect s).1, (otc_effect t).2.1, (otc_effect s).2.1]
  simp only [h1, slotAt, hq, hd, hc, and_self]

theorem otc_transmitTrace_congr {s t : State} (hq : t.q = s.q) (hd : t.dma = s.dma)
    (ht : transmitTrace t = transmitTrace s) :
    transmitTrace (onTransferComplete t) = transmitTrace (onTransferComplete s) := by
  have h1 : startsNext t = startsNext s := by simp [startsNext, queueEmpty, hq, hd]
  simp only [transmitTrace] at ht
  simp only [transmitTrace, (otc_effect t).2.2, (otc_effect s).2.2, List.filter_append, ht, h1, slotAt, hq]

/-! ### Deliver -/

/-- The second round after the bus handler: only the completion can be left. -/
theorem choose_after_bus {s : State} (hp : s.bus.pend = false) :
    choose s = if willComplete s then .xfer else .stop := by
  cases h : s.halt <;> cases h2 : s.dma.tc <;>
    simp [choose, willComplete, busReq, xferReq, hp, h, h2]

/-- The second round after the completion handler: only the bus request can be left. -/
theorem choose_after_xfer {s : State} (ht : s.dma.tc = false) :
    choose s = if s.halt.isSome then .stop else if busReq s then .bus else .stop := by
  cases h : s.halt <;> cases h2 : busReq s <;> simp [choose, xferReq, ht, h, h2]

/-- A second round that serves a completion the bus handler left. -/
def thenXfer (s : State) : State := if willComplete s then onTransferComplete s else s

/-- A second round that serves a bus request the completion handler left. -/
def thenBus (s : State) : State :=
  if s.halt.isSome then s else if busReq s then runBusHandler s else s

theorem runBusHandler_pend (s : State) : (runBusHandler s).bus.pend = false := by
  simp [runBusHandler, (onBusEvent_latch s.bus.flags s.bus.data (s.setPend false)).2.2.1]

theorem deliverRounds_one_bus {s : State} (hp : s.bus.pend = false) : deliverRounds 1 s = thenXfer s := by
  cases hw : willComplete s <;> simp [deliverRounds, choose_after_bus hp, thenXfer, hw]

theorem deliverRounds_one_xfer {s : State} (ht : s.dma.tc = false) : deliverRounds 1 s = thenBus s := by
  cases h : s.halt <;> cases h2 : busReq s <;> simp [deliverRounds, choose_after_xfer ht, thenBus, h, h2]

/-- `Deliver()`, round by round (R194). -/
theorem deliver_eq (s : State) :
    deliver s =
      match choose s with
      | .stop => s
      | .bus => thenXfer (runBusHandler s)
      | .xfer => thenBus (onTransferComplete s)
      | .either =>
        if Config.freeTieOrder s.env.freeCount then thenXfer (runBusHandler (s.useFree 1))
        else thenBus (onTransferComplete (s.useFree 1)) := by
  unfold deliver
  rw [deliverRounds]
  cases choose s
  · rfl
  · exact deliverRounds_one_bus (runBusHandler_pend s)
  · exact deliverRounds_one_xfer (otc_dma_tc s)
  · simp only [deliverRounds_one_bus (runBusHandler_pend _), deliverRounds_one_xfer (otc_dma_tc _)]

/-- Nothing is left to run after `Deliver()` (R194). -/
theorem choose_deliver (s : State) : choose (deliver s) = .stop := by
  have hb : ∀ u : State, u.bus.pend = false → choose (thenXfer u) = .stop := by
    intro u hp
    unfold thenXfer
    split
    · rw [choose_after_xfer (otc_dma_tc u)]
      simp [busReq, hp]
    · rename_i h
      rw [choose_after_bus hp]
      simp [h]
  have hx : ∀ u : State, u.dma.tc = false → choose (thenBus u) = .stop := by
    intro u ht
    have hch := choose_after_xfer ht
    unfold thenBus
    split
    · rename_i h; simpa [h] using hch
    · split
      · rw [choose_after_bus (runBusHandler_pend u)]
        simp [willComplete, runBusHandler, ht]
      · rename_i h1 h2; simpa [h1, h2] using hch
  rw [deliver_eq]
  split
  · assumption
  · exact hb _ (runBusHandler_pend s)
  · exact hx _ (otc_dma_tc s)
  · split
    · exact hb _ (runBusHandler_pend _)
    · exact hx _ (otc_dma_tc _)

/-- When nothing is asserted, `Deliver()` does nothing. -/
theorem deliver_stop {s : State} (h : choose s = .stop) : deliver s = s := by
  rw [deliver_eq, h]

end Sys2Proof.Machine
end

