-- ==== Sys2Proof/Laws/Engine.lean ====
section
/-! SUPPORT. `Deliver()` seen from each side: with no bus handler to run it is the completion handler or nothing, and
with a bus request it moves the engine as the handler does and only serves the transmit path. -/

namespace Sys2Proof.Machine

/-- With no bus handler to run, `Deliver()` is the completion handler or nothing. -/
theorem deliver_noBus {s : State} (h : NoBusHandler s) :
    deliver s = if willComplete s then onTransferComplete s else s := by
  have hb : ∀ u : State, u.halt = s.halt → busReq u = busReq s → thenBus u = u := by
    intro u h1 h2
    rcases h with h | h
    · have : u.halt.isSome = true := by rw [h1]; exact Option.isSome_iff_ne_none.2 h
      simp [thenBus, this]
    · simp [thenBus, h2, h]
  have hx : thenBus (onTransferComplete s) = onTransferComplete s :=
    hb _ (by simp) (by simp [busReq])
  rw [deliver_eq]
  cases hh : s.halt with
  | some c =>
    cases ht : s.dma.tc <;> simp [choose, willComplete, hh, ht, hx]
  | none =>
    have hbr : busReq s = false := by simpa [NoBusHandler, hh] using h
    cases ht : s.dma.tc <;> by_cases hp : s.prioMask < s.env.cfg.pXfer <;>
      simp [choose, willComplete, xferReq, hh, ht, hp, hbr, hx]

/-- The completion handler's requests as the bus handler leaves them. -/
theorem willComplete_runBus (s : State) :
    willComplete (runBusHandler s) =
      (s.dma.tc && ((runBusHandler s).halt.isSome || decide (s.prioMask < s.env.cfg.pXfer))) := by
  simp [willComplete, runBusHandler]

theorem withEngine_q (s r : State) : (withEngine s r).q = s.q := rfl

/-- The bus handler after the completion handler moves the engine as before it (R196). -/
theorem onBusEvent_after_otc (f : FlagVec) (d : Byte) (s : State) :
    (onBusEvent f d (onTransferComplete s)).txn = (onBusEvent f d s).txn ∧
      (onBusEvent f d (onTransferComplete s)).ien = (onBusEvent f d s).ien ∧
      (onBusEvent f d (onTransferComplete s)).bus = (onBusEvent f d s).bus ∧
      (onBusEvent f d (onTransferComplete s)).halt = (onBusEvent f d s).halt ∧
      engineTrace (onBusEvent f d (onTransferComplete s)) = engineTrace (onBusEvent f d s) ∧
      transmitTrace (onBusEvent f d (onTransferComplete s)) = transmitTrace (onTransferComplete s) := by
  have he : engineSide (onTransferComplete s) = engineSide s := by simp [engineSide]
  have h1 := onBusEvent_local f d (onTransferComplete s)
  have h2 := onBusEvent_local f d s
  rw [he] at h1
  refine ⟨by rw [h1, h2]; rfl, by rw [h1, h2]; rfl, by rw [h1, h2]; rfl, by rw [h1, h2]; rfl, ?_,
    onBusEvent_transmitTrace f d _⟩
  have h3 := otc_engineTrace s
  simp only [engineTrace] at h3 ⊢
  rw [onBusEvent_trace f d (onTransferComplete s), onBusEvent_trace f d s, he, List.filter_append,
    List.filter_append, h3]

/-- What `Deliver()` leaves when it runs the bus handler: the engine as the handler leaves it, and the transmit path
served exactly when its completion is handled in the same delivery. -/
structure BusDelivered (u t : State) : Prop where
  txn  : t.txn = (runBusHandler u).txn
  ien  : t.ien = (runBusHandler u).ien
  bus  : t.bus = (runBusHandler u).bus
  halt : t.halt = (runBusHandler u).halt
  mask : t.prioMask = u.prioMask
  engine : engineTrace t = engineTrace (runBusHandler u)
  env  : SameSurroundings u t
  left : willComplete (runBusHandler u) = false → t.q = u.q ∧ t.dma = u.dma ∧
    t.env.trace = (runBusHandler u).env.trace ∧ t.env.freeCount = u.env.freeCount
  served : willComplete (runBusHandler u) = true → t.q = (onTransferComplete u).q ∧
    t.dma = (onTransferComplete u).dma ∧ transmitTrace t = transmitTrace (onTransferComplete u)

theorem busDelivered_thenXfer (u : State) : BusDelivered u (thenXfer (runBusHandler u)) := by
  have hq : (runBusHandler u).q = u.q := by simp [runBusHandler]
  have hd : (runBusHandler u).dma = u.dma := by simp [runBusHandler]
  have hc : (runBusHandler u).env.cfg = u.env.cfg := by simp [runBusHandler]
  have ht : transmitTrace (runBusHandler u) = transmitTrace u := by
    simp only [runBusHandler, onBusEvent_transmitTrace]
    rfl
  have ho := otc_congr hq hd hc
  have hot := otc_transmitTrace_congr hq hd ht
  cases hw : willComplete (runBusHandler u) with
  | true =>
    have e : thenXfer (runBusHandler u) = onTransferComplete (runBusHandler u) := by simp [thenXfer, hw]
    rw [e]
    exact ⟨by simp, by simp, by simp, by simp, by simp [runBusHandler], otc_engineTrace _,
      by simp [SameSurroundings, runBusHandler], by simp [hw], fun _ => ⟨ho.1, ho.2, hot⟩⟩
  | false =>
    have e : thenXfer (runBusHandler u) = runBusHandler u := by simp [thenXfer, hw]
    rw [e]
    exact ⟨rfl, rfl, rfl, rfl, by simp [runBusHandler], rfl,
      by simp [SameSurroundings, runBusHandler],
      fun _ => ⟨hq, hd, rfl, by simp [runBusHandler]⟩, by simp [hw]⟩

theorem busDelivered_xferFirst (u : State) (hx : xferReq u = true) :
    BusDelivered u (runBusHandler (onTransferComplete u)) := by
  have e : (onTransferComplete u).setPend false = onTransferComplete (u.setPend false) := by
    rw [otc_eq, otc_eq, show startsNext (u.setPend false) = startsNext u from rfl]
    split <;> rfl
  have hr : runBusHandler (onTransferComplete u) =
      onBusEvent u.bus.flags u.bus.data (onTransferComplete (u.setPend false)) := by
    simp only [runBusHandler, e, otc_bus]
  obtain ⟨h1, h2, h3, h4, h5, h6⟩ := onBusEvent_after_otc u.bus.flags u.bus.data (u.setPend false)
  have ho := otc_congr (s := u) (t := u.setPend false) rfl rfl rfl
  have hot := otc_transmitTrace_congr (s := u) (t := u.setPend false) rfl rfl rfl
  have hw : willComplete (runBusHandler u) = true := by
    rw [willComplete_runBus]
    simp only [xferReq, Bool.and_eq_true] at hx
    simp [hx.1, hx.2]
  rw [hr]
  exact ⟨h1, h2, h3, h4, by simp, h5, by simp [SameSurroundings], by simp [hw],
    fun _ => ⟨by rw [onBusEvent_q, ho.1], by rw [onBusEvent_dma, ho.2], by rw [h6, hot]⟩⟩

theorem runBusHandler_useFree (u : State) (n : Nat) : runBusHandler (u.useFree n) = (runBusHandler u).useFree n := by
  have h1 := onBusEvent_local u.bus.flags u.bus.data ((u.useFree n).setPend false)
  have h2 := onBusEvent_local u.bus.flags u.bus.data (u.setPend false)
  have he : engineSide ((u.useFree n).setPend false) = engineSide (u.setPend false) := rfl
  rw [he] at h1
  change onBusEvent u.bus.flags u.bus.data ((u.useFree n).setPend false) =
    (onBusEvent u.bus.flags u.bus.data (u.setPend false)).useFree n
  rw [h1, h2]
  rfl

/-- `Deliver()` with a bus request asserted, whatever the levels: the one lemma the step statements rest on. -/
theorem deliver_busReq {u : State} (hh : u.halt = none) (hb : busReq u = true) : BusDelivered u (deliver u) := by
  have hfree : ∀ t, BusDelivered (u.useFree 1) t → willComplete (runBusHandler u) = true → BusDelivered u t := by
    intro t h hw
    have e := runBusHandler_useFree u 1
    have ho := otc_congr (s := u) (t := u.useFree 1) rfl rfl rfl
    have hot := otc_transmitTrace_congr (s := u) (t := u.useFree 1) rfl rfl rfl
    have hw' : willComplete (runBusHandler (u.useFree 1)) = true := by rw [e]; exact hw
    obtain ⟨a1, a2, a3, a4, a5, a6, a7, _, a9⟩ := h
    rw [e] at a1 a2 a3 a4 a6
    obtain ⟨b1, b2, b3⟩ := a9 hw'
    exact ⟨a1, a2, a3, a4, a5, a6, a7, by simp [hw],
      fun _ => ⟨by rw [b1, ho.1], by rw [b2, ho.2], by rw [b3, hot]⟩⟩
  have hnext : ∀ v : State, v.halt = none → busReq v = true → thenBus (onTransferComplete v) =
      runBusHandler (onTransferComplete v) := by
    intro v h1 h2
    have : busReq (onTransferComplete v) = true := by simpa [busReq] using h2
    simp [thenBus, h1, this]
  rw [deliver_eq]
  cases hx : xferReq u with
  | false =>
    have : choose u = .bus := by simp [choose, hh, hb, hx]
    rw [this]
    exact busDelivered_thenXfer u
  | true =>
    have hw : willComplete (runBusHandler u) = true := by
      rw [willComplete_runBus]
      simp only [xferReq, Bool.and_eq_true] at hx
      simp [hx.1, hx.2]
    by_cases h1 : u.env.cfg.pXfer < u.env.cfg.pBus
    · have : choose u = .bus := by simp [choose, hh, hb, hx, h1]
      rw [this]
      exact busDelivered_thenXfer u
    · by_cases h2 : u.env.cfg.pBus < u.env.cfg.pXfer
      · have : choose u = .xfer := by simp [choose, hh, hb, hx, h1, h2]
        rw [this]
        simp only
        rw [hnext u hh hb]
        exact busDelivered_xferFirst u hx
      · have : choose u = .either := by simp [choose, hh, hb, hx, h1, h2]
        rw [this]
        simp only
        split
        · exact hfree _ (busDelivered_thenXfer (u.useFree 1)) hw
        · rw [hnext (u.useFree 1) hh hb]
          exact hfree _ (busDelivered_xferFirst (u.useFree 1) hx) hw

/-- `Deliver()` keeps the surroundings and the mask, and never ends a halt. -/
theorem deliver_keeps (s : State) :
    SameSurroundings s (deliver s) ∧ (deliver s).prioMask = s.prioMask ∧
      (∀ c, s.halt = some c → (deliver s).halt = some c) := by
  by_cases h : NoBusHandler s
  · rw [deliver_noBus h]
    split <;> simp [SameSurroundings]
  · simp only [NoBusHandler, not_or, Decidable.not_not, Bool.not_eq_false] at h
    have hd := deliver_busReq h.1 h.2
    exact ⟨hd.env, hd.mask, by simp [h.1]⟩

/-- When the bus handler leaves the block running, `Deliver()` is an engine move of the state before the latch. -/
theorem engineMoves_of_busDelivered {s u t : State} {out : List Action} (hd : BusDelivered u t)
    (hr : (runBusHandler u).halt = none) (hs : s.halt = none)
    (hmask : u.prioMask = s.prioMask) (hq : u.q = s.q) (hdma : u.dma = s.dma) (henv : u.env = s.env)
    (hout : (runBusHandler u).env.trace = s.env.trace ++ out)
    (heng : ∀ a ∈ out, a.isTransmit = false) :
    EngineMoves s t (runBusHandler u).txn (runBusHandler u).ien (runBusHandler u).bus out := by
  have hcfg : u.env.cfg = s.env.cfg := by rw [henv]
  have hx : xferReq s = willComplete (runBusHandler u) := by
    rw [willComplete_runBus, hr, xferReq, hdma, hmask, hcfg]
    simp
  have htr : transmitTrace u = transmitTrace s := by simp [transmitTrace, henv]
  refine ⟨hd.txn, hd.ien, hd.bus, by rw [hd.mask, hmask], by rw [hd.halt, hr, hs], ?_, ?_, ?_, ?_⟩
  · rw [hd.engine]
    have : out.filter (fun a => !a.isTransmit) = out :=
      List.filter_eq_self.2 fun a ha => by simp [heng a ha]
    simp only [engineTrace, hout, List.filter_append, this]
  · have := hd.env
    simpa only [SameSurroundings, henv] using this
  · intro h
    obtain ⟨a, b, c, d⟩ := hd.left (hx ▸ h)
    exact ⟨by rw [a, hq], by rw [b, hdma], by rw [c, hout], by rw [d, henv]⟩
  · intro h
    obtain ⟨a, b, c⟩ := hd.served (hx ▸ h)
    have ho := otc_congr hq hdma hcfg
    exact ⟨by rw [a, ho.1], by rw [b, ho.2], by rw [c, otc_transmitTrace_congr hq hdma htr]⟩

/-- When there is no bus handler to run, `Deliver()` after an engine command is an engine move. -/
theorem engineMoves_of_noBus {s u : State} {out : List Action} (hn : busReq u = false) (hs : s.halt = none)
    (hh : u.halt = none) (hmask : u.prioMask = s.prioMask) (hq : u.q = s.q) (hdma : u.dma = s.dma)
    (hout : u.env = { s.env with trace := s.env.trace ++ out }) (heng : ∀ a ∈ out, a.isTransmit = false) :
    EngineMoves s (deliver u) u.txn u.ien u.bus out := by
  have hcfg : u.env.cfg = s.env.cfg := by rw [hout]
  have hx : willComplete u = xferReq s := by simp [willComplete, xferReq, hh, hmask, hdma, hcfg]
  have hf : out.filter (fun a => !a.isTransmit) = out :=
    List.filter_eq_self.2 fun a ha => by simp [heng a ha]
  have hf' : out.filter Action.isTransmit = [] :=
    List.filter_eq_nil_iff.2 fun a ha => by simp [heng a ha]
  have he : engineTrace u = engineTrace s ++ out := by simp [engineTrace, hout, hf]
  have htr : transmitTrace u = transmitTrace s := by simp [transmitTrace, hout, hf']
  rw [deliver_noBus (.inr hn), hx]
  cases h : xferReq s with
  | true =>
    have ho := otc_congr hq hdma hcfg
    simp only [if_true]
    refine ⟨by simp, by simp, by simp, by simp [hmask], by simp [hh, hs], ?_, ?_, by simp [h], fun _ => ?_⟩
    · rw [otc_engineTrace, he]
    · simp [SameSurroundings, hout]
    · exact ⟨ho.1, ho.2, otc_transmitTrace_congr hq hdma htr⟩
  | false =>
    simp only [Bool.false_eq_true, if_false]
    exact ⟨rfl, rfl, rfl, hmask, by rw [hh, hs], he, by simp [SameSurroundings, hout],
      fun _ => ⟨hq, hdma, by simp [hout], by simp [hout]⟩, by simp [h]⟩

/-! ### The shared bodies without their sections -/

/-- `Acquire(d)` restores the mask it raised (R121, R195). -/
theorem acquire_eq (d : Direction) (s : State) : acquire d s = acquireBody d s := rfl

/-- ENQUEUE's section restores the mask it raised (R195). -/
theorem enqueueSection_eq (l : Level) (d : Desc) (s : State) :
    inSection l (enqueueBody d) s = enqueueBody d s := by
  have h1 : queueFull (s.setMask (raisedMask s.prioMask l)) = queueFull s := rfl
  have h2 : idle (appendDesc d (s.setMask (raisedMask s.prioMask l))) = idle (appendDesc d s) := rfl
  simp only [inSection, enqueueBody, h1, h2]
  split
  · rfl
  · split <;> rfl

end Sys2Proof.Machine
end

