-- ==== Sys2Proof/Laws/Exec.lean ====
section
/-! SUPPORT. What a stimulus can do, said once: `exec_cases` for every stimulus, `deliver_induct` for `Deliver()`,
`decode_cases` for the decoder. -/

namespace Sys2Proof.Machine

/-! ### The states a stimulus hands to `Deliver()` -/

/-- BEGIN_WRITE before its `Deliver()` (R122). -/
def armedWrite (register value : Byte) (s : State) : State :=
  State.emit
    { acquireBody .write s with
      txn := { (acquireBody .write s).txn with register := register, writeValue := value } }
    .ctlStart

/-- BEGIN_READ before its `Deliver()` (R123). -/
def armedRead (s : State) : State :=
  State.emit
    { acquireBody .read s with
      txn := { (acquireBody .read s).txn with register := axisReg s.env.cfg .x } }
    .ctlStart

/-- XFER_DONE with a transfer in flight before its `Deliver()` (R174). -/
def completed (s : State) : State :=
  { dropStale (s.emit (.txBytes (sentBytes s))) with dma := { s.dma with active := false, tc := true } }

/-- BUS_TIMEOUT while busy before its `Deliver()` (R157). -/
def aborted (s : State) : State :=
  (release (s.emit .ctlStop)).emit (.txnFailed s.txn.direction s.txn.step)

/-- Every next state a stimulus can have: the state itself, the fatal halt of a begin while busy, or the `Deliver()`
of one of nine bodies. -/
theorem exec_cases {i : Instr} {s t : State} (h : exec i s = .next t) :
    (t = s ∧ ∀ r l, i ≠ .enqueue r l) ∨
    (isBegin i = true ∧ s.halt = none ∧ s.txn.busy = true ∧ t = raiseFatal .precondition s) ∨
    (∃ r v, i = .beginWrite r v ∧ s.halt = none ∧ s.txn.busy = false ∧ t = deliver (armedWrite r v s)) ∨
    ((i = .beginRead ∨ i = .tick) ∧ s.halt = none ∧ s.txn.busy = false ∧ t = deliver (armedRead s)) ∨
    (i = .pollBusy ∧ s.halt = none ∧ t = deliver (s.emit (.busy s.txn.busy))) ∨
    (∃ r l, i = .enqueue r l ∧ l ≠ 0 ∧ t = deliver (enqueueBody ⟨r, l⟩ s)) ∨
    (∃ l, (i = .csEnter l ∨ (i = .csBegin ∧ l = s.env.cfg.pCs)) ∧ s.halt = none ∧
      t = deliver ((s.emit (.prior s.prioMask)).setMask (raisedMask s.prioMask l))) ∨
    (∃ l, i = .csExit l ∧ s.halt = none ∧ t = deliver (s.setMask l)) ∨
    (∃ f d, presentation i = some (f, d) ∧ s.halt = none ∧ t = deliver (s.latch f d)) ∨
    (i = .xferDone ∧ s.dma.active = true ∧ t = deliver (completed s)) ∨
    (i = .busTimeout ∧ s.env.cfg.hasTimeout = true ∧ s.halt = none ∧ s.txn.busy = true ∧
      t = deliver (aborted s)) := by
  have hbegin : ∀ (arm : State → State) (j : Instr) (P : Prop), isBegin j = true →
      (s.halt = none → s.txn.busy = false → P) →
      ∀ u, (unlessHalted s fun s => if s.txn.busy then raiseFatal .precondition s else arm s) = u →
      u = s ∨ (isBegin j = true ∧ s.halt = none ∧ s.txn.busy = true ∧ u = raiseFatal .precondition s) ∨
        (s.halt = none ∧ s.txn.busy = false ∧ u = arm s) := by
    intro arm j P hj _ u hu
    subst hu
    cases hh : s.halt <;> cases hb : s.txn.busy <;> simp [unlessHalted, hh, hb, hj]
  have hpresent : ∀ f d, presentation i = some (f, d) → t = present f d s →
      t = s ∨ (s.halt = none ∧ t = deliver (s.latch f d)) := by
    intro f d _ ht
    subst ht
    cases hh : s.halt <;> simp [present, unlessHalted, hh]
  have hp : ∀ f d, presentation i = some (f, d) → t = present f d s →
      t = s ∨ (∃ f d, presentation i = some (f, d) ∧ s.halt = none ∧ t = deliver (s.latch f d)) := by
    intro f d h1 h2
    rcases hpresent f d h1 h2 with h | ⟨h3, h4⟩
    · exact .inl h
    · exact .inr ⟨f, d, h1, h3, h4⟩
  have hcs : ∀ l, t = csEnter l s → t = s ∨ (s.halt = none ∧
      t = deliver ((s.emit (.prior s.prioMask)).setMask (raisedMask s.prioMask l))) := by
    intro l ht
    subst ht
    cases hh : s.halt <;> simp [csEnter, unlessHalted, hh]
  cases i
  case beginWrite r v =>
    have ht : beginWrite r v s = t := Host.Outcome.next.inj h
    rcases hbegin (fun s => deliver (armedWrite r v s)) (.beginWrite r v) True rfl (fun _ _ => trivial) t ht with
      h | h | ⟨h1, h2, h3⟩
    · exact .inl ⟨h, by simp⟩
    · exact .inr (.inl h)
    · exact .inr (.inr (.inl ⟨r, v, rfl, h1, h2, h3⟩))
  case beginRead =>
    have ht : beginRead s = t := Host.Outcome.next.inj h
    rcases hbegin (fun s => deliver (armedRead s)) .beginRead True rfl (fun _ _ => trivial) t ht with
      h | h | ⟨h1, h2, h3⟩
    · exact .inl ⟨h, by simp⟩
    · exact .inr (.inl h)
    · exact .inr (.inr (.inr (.inl ⟨.inl rfl, h1, h2, h3⟩)))
  case tick =>
    have ht : beginRead s = t := Host.Outcome.next.inj h
    rcases hbegin (fun s => deliver (armedRead s)) .tick True rfl (fun _ _ => trivial) t ht with
      h | h | ⟨h1, h2, h3⟩
    · exact .inl ⟨h, by simp⟩
    · exact .inr (.inl h)
    · exact .inr (.inr (.inr (.inl ⟨.inr rfl, h1, h2, h3⟩)))
  case pollBusy =>
    have ht : (unlessHalted s fun s => deliver (s.emit (.busy s.txn.busy))) = t := Host.Outcome.next.inj h
    subst ht
    cases hh : s.halt with
    | some c => exact .inl ⟨by simp [unlessHalted, hh], by simp⟩
    | none => exact .inr (.inr (.inr (.inr (.inl ⟨rfl, rfl, by simp [unlessHalted, hh]⟩))))
  case enqueue r l =>
    by_cases hl : l = 0
    · subst hl
      cases h
    · have h2 : execEnqueue r l s = .next (enqueue ⟨r, l⟩ s) := if_neg hl
      have ht : enqueue ⟨r, l⟩ s = t := Host.Outcome.next.inj (h2.symm.trans h)
      rw [enqueue, enqueueSection_eq] at ht
      exact .inr (.inr (.inr (.inr (.inr (.inl ⟨r, l, rfl, hl, ht.symm⟩)))))
  case csEnter l =>
    rcases hcs l (Host.Outcome.next.inj h).symm with h | ⟨h1, h2⟩
    · exact .inl ⟨h, by simp⟩
    · exact .inr (.inr (.inr (.inr (.inr (.inr (.inl ⟨l, .inl rfl, h1, h2⟩))))))
  case csBegin =>
    rcases hcs s.env.cfg.pCs (Host.Outcome.next.inj h).symm with h | ⟨h1, h2⟩
    · exact .inl ⟨h, by simp⟩
    · exact .inr (.inr (.inr (.inr (.inr (.inr (.inl ⟨_, .inr ⟨rfl, rfl⟩, h1, h2⟩))))))
  case csExit l =>
    have ht : (unlessHalted s fun s => deliver (s.setMask l)) = t := Host.Outcome.next.inj h
    subst ht
    cases hh : s.halt with
    | some c => exact .inl ⟨by simp [unlessHalted, hh], by simp⟩
    | none =>
      exact .inr (.inr (.inr (.inr (.inr (.inr (.inr (.inl ⟨l, rfl, rfl, by simp [unlessHalted, hh]⟩)))))))
  case xferDone =>
    have ht : xferDone s = t := Host.Outcome.next.inj h
    cases ha : s.dma.active with
    | false => exact .inl ⟨by rw [← ht]; simp [xferDone, ha], by simp⟩
    | true =>
      refine .inr (.inr (.inr (.inr (.inr (.inr (.inr (.inr (.inr (.inl ⟨rfl, rfl, ?_⟩)))))))))
      rw [← ht]
      simp only [xferDone, ha, if_true]
      rfl
  case busTimeout =>
    cases hx : s.env.cfg.hasTimeout with
    | false =>
      have h2 : execBusTimeout s = .refused (.invalidStimulus .noTimeout) := by simp [execBusTimeout, hx]
      cases h2.symm.trans h
    | true =>
      have h2 : execBusTimeout s = .next (busTimeout s) := by simp [execBusTimeout, hx]
      have ht : busTimeout s = t := Host.Outcome.next.inj (h2.symm.trans h)
      cases hh : s.halt with
      | some c => exact .inl ⟨by rw [← ht]; simp [busTimeout, unlessHalted, hh], by simp⟩
      | none =>
        cases hb : s.txn.busy with
        | false => exact .inl ⟨by rw [← ht]; simp [busTimeout, unlessHalted, hh, hb], by simp⟩
        | true =>
          refine .inr (.inr (.inr (.inr (.inr (.inr (.inr (.inr (.inr (.inr ⟨rfl, rfl, rfl, rfl, ?_⟩)))))))))
          rw [← ht]
          simp only [busTimeout, unlessHalted, hh, hb, Option.isSome_none, Bool.false_eq_true, if_false, if_true]
          rfl
  all_goals
    rcases hp _ _ rfl (Host.Outcome.next.inj h).symm with h | h
    · exact .inl ⟨h, by simp⟩
    · exact .inr (.inr (.inr (.inr (.inr (.inr (.inr (.inr (.inl h))))))))

/-- What the body of ENQUEUE leaves alone (R173). -/
theorem enqueueBody_keeps (d : Desc) (s : State) :
    (enqueueBody d s).txn = s.txn ∧ (enqueueBody d s).ien = s.ien ∧ (enqueueBody d s).bus = s.bus ∧
      (enqueueBody d s).prioMask = s.prioMask ∧ (enqueueBody d s).halt = s.halt ∧
      SameSurroundings s (enqueueBody d s) := by
  simp only [enqueueBody, SameSurroundings]
  split
  · simp
  · split <;> simp

/-- BEGIN_WRITE and BEGIN_READ discard a leftover latch (R121), and BUS_TIMEOUT closes the gate (R143): no bus request
is asserted at their `Deliver()`. -/
theorem no_busReq_after_begin (r v : Byte) (s : State) :
    busReq (armedWrite r v s) = false ∧ busReq (armedRead s) = false ∧ busReq (aborted s) = false := by
  simp [busReq, armedWrite, armedRead, aborted, gate]

/-! ### Presentations -/

/-- Every spelling of BUS_EVENT presents the same (R104, R107). -/
theorem exec_present {i : Instr} {f : FlagVec} {d : Byte} {s : State} (h : presentation i = some (f, d)) :
    exec i s = .next (present f d s) := by
  cases i <;> simp [presentation] at h <;> obtain ⟨rfl, rfl⟩ := h <;> rfl

/-- A presentation that is delivered moves the engine as its step does: what a step writes and emits, given as the
handler's result, is what the stimulus writes and emits (R140, R194). -/
theorem present_moves {f : FlagVec} {d : Byte} {s : State} (out : List Action) (txn : Txn) (ien : Enables)
    (bus : BusLatch) (hh : s.halt = none) (hg : gate s.ien f = true) (hm : s.prioMask < s.env.cfg.pBus)
    (hr : onBusEvent f d ((s.latch f d).setPend false) =
      { s with txn := txn, ien := ien, bus := bus, env := { s.env with trace := s.env.trace ++ out } })
    (ho : ∀ a ∈ out, a.isTransmit = false) : EngineMoves s (present f d s) txn ien bus out := by
  simp only [present, unlessHalted, hh, Option.isSome_none, Bool.false_eq_true, if_false]
  have hb : busReq (s.latch f d) = true := by simp [busReq, hg, hm]
  have hd := deliver_busReq (u := s.latch f d) (by simp [hh]) hb
  have hrun : runBusHandler (s.latch f d) =
      { s with txn := txn, ien := ien, bus := bus, env := { s.env with trace := s.env.trace ++ out } } := hr
  have := engineMoves_of_busDelivered (s := s) (out := out) hd (by rw [hrun]; exact hh) hh rfl rfl rfl rfl
    (by rw [hrun]) ho
  rw [hrun] at this
  exact this

/-- SB, ADDR and BTF pass the gate of a busy engine (R193). -/
theorem gate_of_flag {ien : Enables} {f : FlagVec} (he : ien.evt = true)
    (h : observed .sb f = true ∨ observed .addr f = true ∨ observed .btf f = true) : gate ien f = true := by
  rcases h with h | h | h <;> simp [gate, he, h]

/-! ### `Deliver()` -/

/-- What holds of the state given to `Deliver()` and is kept by each of its rounds holds after it (R194). -/
theorem deliver_induct {P : State → Prop} {s : State} (h0 : P s) (hfree : ∀ u, P u → P (u.useFree 1))
    (hbus : ∀ u, u.halt = none → busReq u = true → P u → P (runBusHandler u))
    (hxfer : ∀ u, willComplete u = true → P u → P (onTransferComplete u)) : P (deliver s) := by
  have hround : ∀ n u, P u → P (deliverRounds n u) := by
    intro n
    induction n with
    | zero => exact fun u hu => hu
    | succ n ih =>
      intro u hu
      have hh : choose u = .bus ∨ choose u = .either → u.halt = none ∧ busReq u = true := by
        cases hh : u.halt <;> cases hb : busReq u <;> cases hx : xferReq u <;> cases ht : u.dma.tc <;>
          simp [choose, hh, hb, hx, ht]
      have hw : choose u = .xfer ∨ choose u = .either → willComplete u = true := by
        cases hh : u.halt <;> cases hb : busReq u <;> cases ht : u.dma.tc <;>
          by_cases hm : u.prioMask < u.env.cfg.pXfer <;>
          simp [choose, willComplete, xferReq, hh, hb, ht, hm]
      simp only [deliverRounds]
      split
      · exact hu
      · rename_i hc
        exact ih _ (hbus u (hh (.inl hc)).1 (hh (.inl hc)).2 hu)
      · rename_i hc
        exact ih _ (hxfer u (hw (.inl hc)) hu)
      · rename_i hc
        split
        · exact ih _ (hbus (u.useFree 1) (hh (.inr hc)).1 (hh (.inr hc)).2 (hfree u hu))
        · exact ih _ (hxfer (u.useFree 1) (hw (.inr hc)) (hfree u hu))
  exact hround 2 s h0

/-- How `Deliver()` can change `halt` (R154, R155, R194). -/
theorem deliver_halt (u : State) :
    (deliver u).halt = u.halt ∨
      (u.halt = none ∧ busReq u = true ∧ (deliver u).halt = some .sequencing ∧
        (u.txn.busy = false ∨ stepAt u.txn.direction u.txn.step = none)) := by
  by_cases h : NoBusHandler u
  · left
    rw [deliver_noBus h]
    split <;> simp
  · simp only [NoBusHandler, not_or, Decidable.not_not, Bool.not_eq_false] at h
    rw [(deliver_busReq h.1 h.2).halt]
    rcases onBusEvent_halt u.bus.flags u.bus.data (u.setPend false) with h1 | ⟨h1, h2⟩
    · exact .inl h1
    · exact .inr ⟨h.1, h.2, h1, h2⟩

end Sys2Proof.Machine

namespace Sys2Proof

/-! ### The decoder -/

theorem whenZero_ok {ok : Bool} {w : Word} {i j : Instr} (h : whenZero ok w i = .ok j) : ok = true ∧ i = j := by
  unfold whenZero at h
  split at h
  · exact ⟨by assumption, Except.ok.inj h⟩
  · cases h

/-- Every word that decodes, with what it decodes to (R92 to R103). -/
theorem decode_cases {cfg : Config} {w : Word} {i : Instr} (h : decode cfg w = .ok i) :
    (∃ r v, w = packWord 0x01 r ((0 : Byte) ++ v) 0 ∧ i = .beginWrite r v) ∨
    (w = packWord 0x02 0 0 0 ∧ i = .beginRead) ∨
    (w = packWord 0x03 0 0 0 ∧ i = .pollBusy) ∨
    (∃ r l, w = packWord 0x10 0 l r ∧ i = .enqueue r l) ∨
    (∃ l, w = packWord 0x20 l 0 0 ∧ i = .csEnter l) ∨
    (∃ l, w = packWord 0x21 l 0 0 ∧ i = .csExit l) ∨
    (∃ f d, w = packWord 0x80 f ((0 : Byte) ++ d) 0 ∧ i = .busEvent f d) ∨
    (w = packWord 0x81 0 0 0 ∧ i = .xferDone) ∨
    (cfg.hasTimeout = true ∧ w = packWord 0x82 0 0 0 ∧ i = .busTimeout) := by
  have hw := packWord_fields w
  have hb := bField_bytes w
  unfold decode at h
  simp only at h
  by_cases h1 : opField w = 0x01
  · rw [if_pos h1] at h
    obtain ⟨hz, rfl⟩ := whenZero_ok h
    simp only [Bool.and_eq_true, beq_iff_eq] at hz
    rw [h1, hb, hz.1, hz.2] at hw
    exact .inl ⟨_, _, hw.symm, rfl⟩
  rw [if_neg h1] at h
  by_cases h2 : opField w = 0x02
  · rw [if_pos h2] at h
    obtain ⟨hz, rfl⟩ := whenZero_ok h
    simp only [Bool.and_eq_true, beq_iff_eq] at hz
    rw [h2, hz.1.1, hz.1.2, hz.2] at hw
    exact .inr (.inl ⟨hw.symm, rfl⟩)
  rw [if_neg h2] at h
  by_cases h3 : opField w = 0x03
  · rw [if_pos h3] at h
    obtain ⟨hz, rfl⟩ := whenZero_ok h
    simp only [Bool.and_eq_true, beq_iff_eq] at hz
    rw [h3, hz.1.1, hz.1.2, hz.2] at hw
    exact .inr (.inr (.inl ⟨hw.symm, rfl⟩))
  rw [if_neg h3] at h
  by_cases h4 : opField w = 0x10
  · rw [if_pos h4] at h
    obtain ⟨hz, rfl⟩ := whenZero_ok h
    simp only [beq_iff_eq] at hz
    rw [h4, hz] at hw
    exact .inr (.inr (.inr (.inl ⟨_, _, hw.symm, rfl⟩)))
  rw [if_neg h4] at h
  by_cases h5 : opField w = 0x20
  · rw [if_pos h5] at h
    obtain ⟨hz, rfl⟩ := whenZero_ok h
    simp only [Bool.and_eq_true, beq_iff_eq] at hz
    rw [h5, hz.1, hz.2] at hw
    exact .inr (.inr (.inr (.inr (.inl ⟨_, hw.symm, rfl⟩))))
  rw [if_neg h5] at h
  by_cases h6 : opField w = 0x21
  · rw [if_pos h6] at h
    obtain ⟨hz, rfl⟩ := whenZero_ok h
    simp only [Bool.and_eq_true, beq_iff_eq] at hz
    rw [h6, hz.1, hz.2] at hw
    exact .inr (.inr (.inr (.inr (.inr (.inl ⟨_, hw.symm, rfl⟩)))))
  rw [if_neg h6] at h
  by_cases h7 : opField w = 0x80
  · rw [if_pos h7] at h
    obtain ⟨hz, rfl⟩ := whenZero_ok h
    simp only [Bool.and_eq_true, beq_iff_eq] at hz
    rw [h7, hb, hz.1, hz.2] at hw
    exact .inr (.inr (.inr (.inr (.inr (.inr (.inl ⟨_, _, hw.symm, rfl⟩))))))
  rw [if_neg h7] at h
  by_cases h8 : opField w = 0x81
  · rw [if_pos h8] at h
    obtain ⟨hz, rfl⟩ := whenZero_ok h
    simp only [Bool.and_eq_true, beq_iff_eq] at hz
    rw [h8, hz.1.1, hz.1.2, hz.2] at hw
    exact .inr (.inr (.inr (.inr (.inr (.inr (.inr (.inl ⟨hw.symm, rfl⟩)))))))
  rw [if_neg h8] at h
  by_cases h9 : opField w = 0x82
  · rw [if_pos h9] at h
    split at h
    · rename_i ht
      obtain ⟨hz, rfl⟩ := whenZero_ok h
      simp only [Bool.and_eq_true, beq_iff_eq] at hz
      rw [h9, hz.1.1, hz.1.2, hz.2] at hw
      exact .inr (.inr (.inr (.inr (.inr (.inr (.inr (.inr ⟨ht, hw.symm, rfl⟩)))))))
    · cases h
  · rw [if_neg h9] at h
    cases h

end Sys2Proof
end

