-- ==== Sys2Proof/Laws/Queue.lean ====
section
/-! SUPPORT. The ring as a list: what starting and appending do to the queued descriptors (R34, R35, R172, R173), and
what each operation adds to the started ones. -/

namespace Sys2Proof.Machine

/-- The ring index stays in range (R34). -/
theorem ringNext_lt (c : Config) (i : Nat) : ringNext c i < qslots c := Nat.mod_lt _ (by simp [qslots])

/-- `Len` without the modulus (R35). -/
theorem queueLen_eq (s : State) (h1 : s.q.head < qslots s.env.cfg) (h2 : s.q.tail < qslots s.env.cfg) :
    queueLen s = if s.q.head ≤ s.q.tail then s.q.tail - s.q.head else s.q.tail + qslots s.env.cfg - s.q.head := by
  unfold queueLen
  generalize qslots s.env.cfg = n at *
  rw [Nat.mod_eq_of_lt h1]
  split
  · rw [show s.q.tail + (n - s.q.head) = (s.q.tail - s.q.head) + n by omega, Nat.add_mod_right,
      Nat.mod_eq_of_lt (by omega)]
  · rw [Nat.mod_eq_of_lt (by omega)]; omega

theorem mod_add_lt {a k n : Nat} (ha : a < n) (hk : k < n) : (a + k) % n = if a + k < n then a + k else a + k - n := by
  split
  · exact Nat.mod_eq_of_lt ‹_›
  · rw [Nat.mod_eq_sub_mod (by omega), Nat.mod_eq_of_lt (by omega)]

/-- The ring advance without the modulus (R34). -/
theorem ringNext_eq {c : Config} {a : Nat} (ha : a < qslots c) :
    ringNext c a = if a + 1 < qslots c then a + 1 else 0 := by
  unfold ringNext
  split
  · exact Nat.mod_eq_of_lt ‹_›
  · rw [show a + 1 = qslots c by omega, Nat.mod_self]

theorem queued_congr {s t : State} (h1 : t.q = s.q) (h2 : t.env.cfg = s.env.cfg) : queued t = queued s := by
  simp only [queued, queueLen, slotAt, h1, h2]

/-- A start takes the oldest descriptor off the queue (R172). -/
theorem queued_start (s t : State) (h1 : s.q.head < qslots s.env.cfg) (h2 : s.q.tail < qslots s.env.cfg)
    (he : queueEmpty s = false) (ht : t.q = { s.q with head := ringNext s.env.cfg s.q.head })
    (hc : t.env.cfg = s.env.cfg) : queued s = slotAt s s.q.head :: queued t := by
  have hne : s.q.head ≠ s.q.tail := by simpa [queueEmpty] using he
  have hn := ringNext_eq (c := s.env.cfg) h1
  have ht1 : t.q.head < qslots t.env.cfg := by rw [ht, hc]; exact ringNext_lt _ _
  have ht2 : t.q.tail < qslots t.env.cfg := by rw [ht, hc]; exact h2
  have hl : queueLen s = queueLen t + 1 := by
    rw [queueLen_eq s h1 h2, queueLen_eq t ht1 ht2, hc, ht]
    simp only [hn]
    split <;> split <;> split <;> omega
  have hlt : queueLen s ≤ qslots s.env.cfg - 1 := by
    rw [queueLen_eq s h1 h2]; split <;> omega
  simp only [queued]
  rw [hl, List.range_succ_eq_map, List.map_cons, List.map_map]
  congr 1
  · rw [Nat.add_zero, Nat.mod_eq_of_lt h1]
  · apply List.map_congr_left
    intro k hk
    have hk := List.mem_range.1 hk
    simp only [Function.comp, hc, ht, slotAt]
    congr 1
    rw [ringNext, Nat.mod_add_mod]
    congr 1; omega

/-- An append adds one at the end (R173). -/
theorem queued_append (s t : State) (d : Desc) (h1 : s.q.head < qslots s.env.cfg)
    (h2 : s.q.tail < qslots s.env.cfg) (hf : queueFull s = false) (hw : cellsWf noDesc s.q.slots = true)
    (ht : t.q = { head := s.q.head, tail := ringNext s.env.cfg s.q.tail,
                  slots := cellPut noDesc s.q.tail d s.q.slots })
    (hc : t.env.cfg = s.env.cfg) : queued t = queued s ++ [d] ∧ queueLen t = queueLen s + 1 := by
  have hne : ringNext s.env.cfg s.q.tail ≠ s.q.head := by simpa [queueFull] using hf
  have hn := ringNext_eq (c := s.env.cfg) h2
  have ht1 : t.q.head < qslots t.env.cfg := by rw [ht, hc]; exact h1
  have ht2 : t.q.tail < qslots t.env.cfg := by rw [ht, hc]; exact ringNext_lt _ _
  have hl : queueLen t = queueLen s + 1 := by
    rw [queueLen_eq s h1 h2, queueLen_eq t ht1 ht2, hc, ht]
    simp only [hn]
    rw [hn] at hne
    by_cases hc : s.q.tail + 1 < qslots s.env.cfg
    · rw [if_pos hc] at *; split <;> split <;> omega
    · rw [if_neg hc] at *; split <;> split <;> omega
  have hlt : queueLen s < qslots s.env.cfg := by
    rw [queueLen_eq s h1 h2]; split <;> omega
  refine ⟨?_, hl⟩
  simp only [queued]
  rw [hl, List.range_succ, List.map_append]
  congr 1
  · apply List.map_congr_left
    intro k hk
    have hk := List.mem_range.1 hk
    simp only [hc, ht, slotAt]
    apply cellGet_cellPut_other _ hw
    rw [mod_add_lt h1 (by omega)]
    rw [queueLen_eq s h1 h2] at hk
    split at hk <;> split <;> omega
  · simp only [hc, ht, slotAt, List.map_cons, List.map_nil]
    have : (s.q.head + queueLen s) % qslots s.env.cfg = s.q.tail := by
      rw [mod_add_lt h1 (by omega), queueLen_eq s h1 h2]
      split <;> split <;> omega
    rw [this, cellGet_cellPut_same _ _ hw]

/-- The started descriptors are in the transmit path's part of the trace. -/
theorem started_transmit (s : State) : started s = (transmitTrace s).filterMap startedDesc := by
  simp only [started, transmitTrace, List.filterMap_filter]
  congr 1; funext a
  cases a <;> rfl

/-- The completion handler starts the oldest descriptor or none (R175). -/
theorem started_otc (s : State) :
    started (onTransferComplete s) = started s ++ (if startsNext s then [slotAt s s.q.head] else []) := by
  simp only [started, (otc_effect s).2.2]
  split <;> simp [startedDesc, List.filterMap]

/-- The bus handler starts none (R196). -/
theorem started_bus (s : State) : started (runBusHandler s) = started s := by
  rw [started_transmit, started_transmit, runBusHandler, onBusEvent_transmitTrace]; rfl

end Sys2Proof.Machine
end

