-- ==== Sys2Proof/Laws/Contract.lean ====
section
/-! SUPPORT. The pending messages and the breaches of the callers' contract (R76): what each operation does to them,
said once. -/

namespace Sys2Proof.Machine

/-! ### The breaches -/

/-- The breaches of a changing store: one for each message that covers the address. -/
theorem mem_breachesAt {c : Breach} {a : Ref} {old : Byte} {msgs : List Desc} :
    c ∈ breachesAt a old msgs ↔
      c.addr = a ∧ c.old = old ∧ ∃ m, msgs[c.message]? = some m ∧ covers a m = true := by
  simp only [breachesAt, List.mem_map, List.mem_filter, List.mem_range, Option.any_eq_true]
  constructor
  · rintro ⟨k, ⟨-, hm⟩, rfl⟩
    exact ⟨rfl, rfl, hm⟩
  · rintro ⟨rfl, rfl, m, hm, hc⟩
    exact ⟨c.message, ⟨(List.getElem?_eq_some_iff.1 hm).1, m, hm, hc⟩, rfl⟩

/-- What a caller's store remembers (R76). -/
theorem mem_callerStore_stale {c : Breach} {a : Ref} {b : Byte} {s : State} :
    c ∈ (callerStore a b s).env.stale ↔
      c ∈ s.env.stale ∨
        (memByte s.env.mem a ≠ b ∧ c.addr = a ∧ c.old = memByte s.env.mem a ∧
          ∃ m, (pending s)[c.message]? = some m ∧ covers a m = true) := by
  simp only [callerStore]
  split
  · simp [*]
  · rw [List.mem_append, mem_breachesAt]
    simp [*]

theorem shiftBreach_eq_some {c d : Breach} : shiftBreach c = some d ↔ c = ⟨d.message + 1, d.addr, d.old⟩ := by
  rcases c with ⟨k, a, o⟩
  rcases d with ⟨k', a', o'⟩
  cases k <;> simp [shiftBreach]

/-- The end of a transfer ends the breaches of message 0 and renumbers the others (R76). -/
theorem mem_dropStale_stale {c : Breach} {s : State} :
    c ∈ (dropStale s).env.stale ↔ (⟨c.message + 1, c.addr, c.old⟩ : Breach) ∈ s.env.stale := by
  simp only [dropStale, List.mem_filterMap, shiftBreach_eq_some, exists_eq_right]

/-- The old bytes that may be sent from an address are those of the message in flight. -/
theorem mem_staleBytes {s : State} {a : Ref} {b : Byte} :
    b ∈ staleBytes s a ↔ (⟨0, a, b⟩ : Breach) ∈ s.env.stale := by
  simp only [staleBytes, List.mem_map, List.mem_filter, decide_eq_true_eq]
  constructor
  · rintro ⟨⟨k, a', o⟩, ⟨h, rfl, rfl⟩, rfl⟩
    exact h
  · intro h
    exact ⟨_, ⟨h, rfl, rfl⟩, rfl⟩

/-- A message covers each of its addresses (R61). -/
theorem covers_offset {d : Desc} {k : Nat} (h : k < d.len.toNat) : covers (d.ref + BitVec.ofNat 32 k) d = true := by
  simp only [covers, decide_eq_true_eq, BitVec.add_comm d.ref, BitVec.add_sub_cancel, BitVec.toNat_ofNat]
  exact Nat.lt_of_le_of_lt (Nat.mod_le _ _) h

/-! ### The pending messages -/

theorem pending_congr {s t : State} (h1 : t.q = s.q) (h2 : t.dma = s.dma) (h3 : t.env.cfg = s.env.cfg) :
    pending t = pending s := by
  simp only [pending, h2, queued_congr h1 h3]

/-- A start moves the oldest message from the queue into flight: the pending messages are the same (R172). -/
theorem pending_startNext {s : State} (h1 : s.q.head < qslots s.env.cfg) (h2 : s.q.tail < qslots s.env.cfg)
    (he : queueEmpty s = false) (ha : s.dma.active = false) : pending (startNext s) = pending s := by
  rw [pending, pending, queued_start s (startNext s) h1 h2 he rfl rfl, ha]
  rfl

/-- The completion handler keeps the pending messages (R175). -/
theorem pending_otc {s : State} (h1 : s.q.head < qslots s.env.cfg) (h2 : s.q.tail < qslots s.env.cfg) :
    pending (onTransferComplete s) = pending s := by
  rw [otc_eq]
  split
  · rename_i h
    simp only [startsNext, Bool.and_eq_true, Bool.not_eq_true'] at h
    exact pending_startNext (s := acked s) h1 h2 h.1 h.2
  · rfl

/-- The bus handler keeps the pending messages (R196). -/
theorem pending_runBusHandler (s : State) : pending (runBusHandler s) = pending s :=
  pending_congr (by simp [runBusHandler]) (by simp [runBusHandler]) (by simp [runBusHandler])

/-- ENQUEUE adds an accepted message at the end (R173). -/
theorem pending_enqueueBody {s : State} (r : Ref) (l : Len) (h1 : s.q.head < qslots s.env.cfg)
    (h2 : s.q.tail < qslots s.env.cfg) (hw : cellsWf noDesc s.q.slots = true) :
    pending (enqueueBody ⟨r, l⟩ s) = pending s ++ accepted s (.enqueue r l) := by
  simp only [enqueueBody, accepted]
  split
  · simp
  · rename_i hf
    have hf : queueFull s = false := by simpa using hf
    have hp : pending (appendDesc ⟨r, l⟩ s) = pending s ++ [⟨r, l⟩] := by
      have hd : (appendDesc ⟨r, l⟩ s).dma = s.dma := rfl
      simp only [pending, hd, (queued_append s (appendDesc ⟨r, l⟩ s) ⟨r, l⟩ h1 h2 hf hw rfl rfl).1]
      split <;> simp
    split
    · rename_i hi
      have hne : queueEmpty (appendDesc ⟨r, l⟩ s) = false := by
        simp only [queueFull, decide_eq_false_iff_not] at hf
        exact decide_eq_false (Ne.symm hf)
      simp only [idle, Bool.and_eq_true, Bool.not_eq_true'] at hi
      exact (pending_startNext (s := appendDesc ⟨r, l⟩ s) h1 (ringNext_lt _ _) hne hi.1).trans hp
    · exact hp

/-- XFER_DONE takes the message in flight off the pending ones (R174). -/
theorem pending_completed {s : State} (ha : s.dma.active = true) :
    pending s = ⟨s.dma.src, s.dma.len⟩ :: pending (completed s) := by
  have : queued (completed s) = queued s := queued_congr rfl rfl
  simp [pending, ha, this]
  rfl

end Sys2Proof.Machine
end

