-- ==== Sys2Proof/Laws/PerInstr.lean ====
section
/-! SUPPORT. The per-instruction family `RoundTrip`: the word of a stimulus that exists decodes to the stimulus it
stands for (R107, R108). -/

namespace Sys2Proof.Laws.RoundTrip

def Statement (i : Instr) : Prop :=
  ∀ cfg : Config, i.wellFormed cfg = true → decode cfg (encode cfg i) = .ok (i.expand cfg)

theorem decode_busEventWord (cfg : Config) (f : FlagVec) (d : Byte) :
    decode cfg (busEventWord f d) = .ok (.busEvent f d) := by
  simp [decode, busEventWord, whenZero]

theorem decode_csEnterWord (cfg : Config) (l : Level) : decode cfg (csEnterWord l) = .ok (.csEnter l) := by
  simp [decode, csEnterWord, whenZero]

theorem beginWrite (r v : Byte) : Statement (.beginWrite r v) := by
  intro cfg _
  simp [decode, encode, whenZero, Instr.expand]

theorem beginRead : Statement (.beginRead) := by
  intro cfg _
  simp [decode, encode, whenZero, Instr.expand]

theorem tick : Statement (.tick) := by
  intro cfg _
  simp [decode, encode, whenZero, Instr.expand]

theorem pollBusy : Statement (.pollBusy) := by
  intro cfg _
  simp [decode, encode, whenZero, Instr.expand]

theorem enqueue (r : Ref) (l : Len) : Statement (.enqueue r l) := by
  intro cfg _
  simp [decode, encode, whenZero, Instr.expand]

theorem csEnter (l : Level) : Statement (.csEnter l) :=
  fun cfg _ => decode_csEnterWord cfg _

theorem csExit (l : Level) : Statement (.csExit l) := by
  intro cfg _
  simp [decode, encode, whenZero, Instr.expand]

theorem busEvent (f : FlagVec) (d : Byte) : Statement (.busEvent f d) :=
  fun cfg _ => decode_busEventWord cfg f d

theorem busEventW1 (f : FlagVec) (d : Byte) : Statement (.busEventW1 f d) :=
  fun cfg _ => decode_busEventWord cfg f d

theorem busEventW2 (f : FlagVec) (d : Byte) : Statement (.busEventW2 f d) :=
  fun cfg _ => decode_busEventWord cfg f d

theorem busEventW3 (f : FlagVec) (d : Byte) : Statement (.busEventW3 f d) :=
  fun cfg _ => decode_busEventWord cfg f d

theorem busEventW4 (f : FlagVec) (d : Byte) : Statement (.busEventW4 f d) :=
  fun cfg _ => decode_busEventWord cfg f d

theorem busEventRd1 (f : FlagVec) (d : Byte) : Statement (.busEventRd1 f d) :=
  fun cfg _ => decode_busEventWord cfg f d

theorem busEventRd2 (f : FlagVec) (d : Byte) : Statement (.busEventRd2 f d) :=
  fun cfg _ => decode_busEventWord cfg f d

theorem busEventRd3 (f : FlagVec) (d : Byte) : Statement (.busEventRd3 f d) :=
  fun cfg _ => decode_busEventWord cfg f d

theorem busEventRd4 (f : FlagVec) (d : Byte) : Statement (.busEventRd4 f d) :=
  fun cfg _ => decode_busEventWord cfg f d

theorem busEventRd5 (f : FlagVec) (d : Byte) : Statement (.busEventRd5 f d) :=
  fun cfg _ => decode_busEventWord cfg f d

theorem busEventRd6 (f : FlagVec) (d : Byte) : Statement (.busEventRd6 f d) :=
  fun cfg _ => decode_busEventWord cfg f d

theorem busEventUndefined (f : FlagVec) (d : Byte) : Statement (.busEventUndefined f d) :=
  fun cfg _ => decode_busEventWord cfg f d

theorem xferDone : Statement (.xferDone) := by
  intro cfg _
  simp [decode, encode, whenZero, Instr.expand]

theorem busTimeout : Statement (.busTimeout) := by
  intro cfg h
  have h' : cfg.hasTimeout = true := h
  simp [decode, encode, whenZero, Instr.expand, h']

theorem evSb : Statement (.evSb) :=
  fun cfg _ => decode_busEventWord cfg _ _

theorem evAddr : Statement (.evAddr) :=
  fun cfg _ => decode_busEventWord cfg _ _

theorem evBtf : Statement (.evBtf) :=
  fun cfg _ => decode_busEventWord cfg _ _

theorem evTxe : Statement (.evTxe) :=
  fun cfg _ => decode_busEventWord cfg _ _

theorem evRxne (d : Byte) : Statement (.evRxne d) :=
  fun cfg _ => decode_busEventWord cfg _ _

theorem csBegin : Statement (.csBegin) :=
  fun cfg _ => decode_csEnterWord cfg _

end Sys2Proof.Laws.RoundTrip
end

