-- ==== Sys2Proof/Tests/Slice0.lean ====
section
/-! SUPPORT. The smoke tests: what WellFormed refuses, the words of every constructor, small steps, and a witness for
the hypotheses of every obligation that has some. Expected results are those of spec/95_test_vectors.md (E, V and P
numbers) or are written out from the rule named. -/

namespace Sys2Proof.Tests

open Sys2Proof.Machine

/-! ### Helpers -/

/-- The reset state with other parameters. -/
def withConfig (c : Config) : State := { State.reset with env := { State.reset.env with cfg := c } }

/-- A busy engine at a step, nothing else different from reset. -/
def engineAt (d : Direction) (k : StepNo) (a : Axis) (ien : Enables) : State :=
  { State.reset with
    txn := { direction := d, busy := true, step := k, register := 0x20, writeValue := 0x47, currentAxis := a,
             readings := ⟨10, 20, 0⟩ }
    ien := ien }

/-- A READ at a step, the register selected as R24 says. -/
def readAt (k : StepNo) (a : Axis) (ien : Enables) : State :=
  { engineAt .read k a ien with
    txn := { (engineAt .read k a ien).txn with register := axisReg Config.default a } }

/-- The given transmit side, the rest as in `s`. -/
def sending (q : Queue) (dma : Dma) (s : State) : State := { s with q := q, dma := dma }

/-- What a part of the next state is; `none` where there is no next state. -/
def probe {α : Type} (part : State → α) (i : Instr) (s : State) : Option α :=
  match exec i s with
  | .next t => some (part t)
  | _ => none

/-- `Hello` at 0x20000100 (V42.7). -/
def hello : List Host.Cell :=
  [(0x20000100, 0x48), (0x20000101, 0x65), (0x20000102, 0x6C), (0x20000103, 0x6C), (0x20000104, 0x6F)]

/-- The state after V42.1, with that memory. -/
def oneSending : State :=
  let s := sending ⟨1, 1, [(0, ⟨0x20000100, 5⟩)]⟩ ⟨0x20000100, 5, true, false⟩ State.reset
  { s with env := { s.env with mem := hello, trace := [.dmaStart 0x20000100 5] } }

/-- The state after V42.2, with that memory. -/
def twoSending : State :=
  { oneSending with q := ⟨1, 2, [(0, ⟨0x20000100, 5⟩), (1, ⟨0x20000200, 3⟩)]⟩ }

/-- One message queued twice: the last byte of the one in flight was `o` until a caller changed it, and the same
bytes were then enqueued again. -/
def breached : State :=
  { twoSending with
    q := ⟨1, 2, [(0, ⟨0x20000100, 5⟩), (1, ⟨0x20000100, 5⟩)]⟩
    env := { twoSending.env with mem := memStore hello 0x20000104 0x21, stale := [⟨0, 0x20000104, 0x6F⟩] } }

/-- V43.5: the mask at 2, SB latched in a WRITE at step 0, a completion pending, the queue empty. -/
def bothHeld (pBus pXfer : Level) : State :=
  { engineAt .write 0 .x ⟨true, true, false⟩ with
    bus := { ack := false, flags := 0x01, data := 0, pend := true }
    dma := ⟨0, 1, false, true⟩
    prioMask := 2
    env := { State.reset.env with cfg := { Config.default with pBus := pBus, pXfer := pXfer } } }

/-- The fatal halt with cause PRECONDITION. -/
def haltedState : State := { readAt 1 .x ⟨true, false, false⟩ with halt := some .precondition }

/-! ### WellFormed refuses (R9, R197, R101) -/

theorem test_default_config_wellFormed :
    Config.default.wellFormed = true ∧ tableConfig.wellFormed = true := by decide

theorem test_qcap_zero_refused : { Config.default with qcap := 0 }.wellFormed = false := by decide

theorem test_pBus_zero_refused : { Config.default with pBus := 0 }.wellFormed = false := by decide

theorem test_pXfer_zero_refused : { Config.default with pXfer := 0 }.wellFormed = false := by decide

theorem test_pXfer_above_pCs_refused : { Config.default with pXfer := 3 }.wellFormed = false := by decide

theorem test_pBus_above_pCs_refused : { Config.default with pBus := 3 }.wellFormed = false := by decide

theorem test_timeout_absent_refused : Instr.wellFormed Config.default .busTimeout = false := by decide

/-! ### Words written out from R93 to R101 and V30 -/

theorem test_word_beginWrite : decode Config.default 0x0120004700000000 = .ok (.beginWrite 0x20 0x47) := by rfl

theorem test_word_beginWrite_max : decode Config.default 0x01FF00FF00000000 = .ok (.beginWrite 0xFF 0xFF) := by rfl

theorem test_word_beginRead : decode Config.default 0x0200000000000000 = .ok .beginRead := by rfl

theorem test_word_tick : encode Config.default .tick = 0x0200000000000000 := by decide

theorem test_word_pollBusy : decode Config.default 0x0300000000000000 = .ok .pollBusy := by rfl

theorem test_word_enqueue : decode Config.default 0x1000000520000100 = .ok (.enqueue 0x20000100 5) := by rfl

theorem test_word_enqueue_max :
    decode Config.default 0x1000FFFFFFFFFFFF = .ok (.enqueue 0xFFFFFFFF 0xFFFF) := by rfl

theorem test_word_csEnter : decode Config.default 0x2002000000000000 = .ok (.csEnter 2) := by rfl

theorem test_word_csBegin : encode Config.default .csBegin = 0x2002000000000000 := by decide

theorem test_word_csExit : decode Config.default 0x2102000000000000 = .ok (.csExit 2) := by rfl

theorem test_word_busEvent : decode Config.default 0x8040000A00000000 = .ok (.busEvent 0x40 0x0A) := by rfl

theorem test_word_busEvent_max : decode Config.default 0x80FF00FF00000000 = .ok (.busEvent 0xFF 0xFF) := by rfl

/-- The eleven second-level rows have BUS_EVENT's word with their operands (R104). -/
theorem test_word_rows :
    encode Config.default (.busEventW1 0x01 0x5A) = 0x8001005A00000000 ∧
    encode Config.default (.busEventW2 0x02 0x5A) = 0x8002005A00000000 ∧
    encode Config.default (.busEventW3 0x80 0x5A) = 0x8080005A00000000 ∧
    encode Config.default (.busEventW4 0x04 0x5A) = 0x8004005A00000000 ∧
    encode Config.default (.busEventRd1 0x01 0x5A) = 0x8001005A00000000 ∧
    encode Config.default (.busEventRd2 0x02 0x5A) = 0x8002005A00000000 ∧
    encode Config.default (.busEventRd3 0x04 0x5A) = 0x8004005A00000000 ∧
    encode Config.default (.busEventRd4 0x01 0x5A) = 0x8001005A00000000 ∧
    encode Config.default (.busEventRd5 0x02 0x5A) = 0x8002005A00000000 ∧
    encode Config.default (.busEventRd6 0x40 0x5A) = 0x8040005A00000000 ∧
    encode Config.default (.busEventUndefined 0x38 0x5A) = 0x8038005A00000000 ∧
    decode Config.default 0x8038005A00000000 = .ok (.busEvent 0x38 0x5A) := by
  refine ⟨?_, ?_, ?_, ?_, ?_, ?_, ?_, ?_, ?_, ?_, ?_, rfl⟩ <;> decide

/-- The words of the five EV_ stimuli (R107, 95_test_vectors.md section 0). -/
theorem test_word_events :
    encode Config.default .evSb = 0x8001000000000000 ∧ encode Config.default .evAddr = 0x8002000000000000 ∧
    encode Config.default .evBtf = 0x8004000000000000 ∧ encode Config.default .evTxe = 0x8080000000000000 ∧
    encode Config.default (.evRxne 0x0A) = 0x8040000A00000000 := by decide

theorem test_word_xferDone : decode Config.default 0x8100000000000000 = .ok .xferDone := by rfl

theorem test_word_busTimeout :
    decode tableConfig 0x8200000000000000 = .ok .busTimeout ∧
    decode Config.default 0x8200000000000000 = .error .noTimeout := ⟨rfl, rfl⟩

/-- V30.4, V30.5, V30.7, V30.11, V30.15, V30.21: a must-be-zero bit is one. -/
theorem test_word_not_zero :
    decode Config.default 0x0120014700000000 = .error (.unusedBitsNotZero 0x01) ∧
    decode Config.default 0x0120004700000001 = .error (.unusedBitsNotZero 0x01) ∧
    decode Config.default 0x0201000000000000 = .error (.unusedBitsNotZero 0x02) ∧
    decode Config.default 0x1001000520000100 = .error (.unusedBitsNotZero 0x10) ∧
    decode Config.default 0x2002000100000000 = .error (.unusedBitsNotZero 0x20) ∧
    decode Config.default 0x8040010A00000000 = .error (.unusedBitsNotZero 0x80) :=
  ⟨rfl, rfl, rfl, rfl, rfl, rfl⟩

/-- V30.24. -/
theorem test_word_reserved :
    decode Config.default 0x0000000000000000 = .error (.reservedOpcode 0x00) ∧
    decode Config.default 0xFFFFFFFFFFFFFFFF = .error (.reservedOpcode 0xFF) ∧
    decode Config.default 0x0400000000000000 = .error (.reservedOpcode 0x04) ∧
    decode Config.default 0x1100000000000000 = .error (.reservedOpcode 0x11) ∧
    decode Config.default 0x2200000000000000 = .error (.reservedOpcode 0x22) ∧
    decode tableConfig 0x8300000000000000 = .error (.reservedOpcode 0x83) :=
  ⟨rfl, rfl, rfl, rfl, rfl, rfl⟩

/-- R68: the opcode byte comes first. -/
theorem test_bytes_of_enqueue :
    encodeBytes Config.default (.enqueue 0x20000100 5) = [0x10, 0x00, 0x00, 0x05, 0x20, 0x00, 0x01, 0x00] := by
  decide

theorem test_bytes_truncated : decodeBytes Config.default [0x02, 0, 0, 0, 0, 0, 0] = .error .truncated := by rfl

theorem test_table_word : decodeTableWord 64 0x0120004700000000 = some (.beginWrite 0x20 0x47) := by decide

/-- R106: the spec's own lines. -/
theorem test_text :
    parseLine "BEGIN_WRITE 0x20, 0b01000111  # configure".toList = .ok (.beginWrite 0x20 0x47) ∧
    parseLine "BUS_EVENT 0x40, 10".toList = .ok (.busEvent 0x40 0x0A) ∧
    parseLine "BUS_EVENT 0x01".toList = .ok (.busEvent 0x01 0x00) ∧
    parseLine "CS_EXIT 256".toList = .error .outOfRange := ⟨rfl, rfl, rfl, rfl⟩

/-! ### Host commands (V40, V41.38 to V41.40, V60) -/

/-- V40.7: the leftover latch is discarded. -/
theorem test_beginWrite_discards_latch :
    probe (fun t => (t.txn.register, t.ien, t.bus.pend, t.env.trace)) (.beginWrite 0xFF 0x00)
      { State.reset with bus := ⟨false, 0x04, 0, true⟩ } =
      some (0xFF, ⟨true, true, false⟩, false, [.clrStatus, .ctlStart]) := by decide

/-- V40.4. -/
theorem test_beginWrite_busy :
    probe (fun t => (t.txn, t.halt, t.env.trace)) (.beginWrite 0 0) (readAt 5 .y ⟨true, false, true⟩) =
      some ((readAt 5 .y ⟨true, false, true⟩).txn, some .precondition, [.fatal .precondition]) := by decide

/-- V40.9: readings kept, axis and register reset. -/
theorem test_beginRead_after_read :
    probe (fun t => (t.txn.register, t.txn.currentAxis, t.txn.readings, t.ien)) .beginRead
      { readAt 6 .z ⟨false, false, false⟩ with
        txn := { (readAt 6 .z ⟨false, false, false⟩).txn with busy := false } } =
      some (0x29, .x, ⟨10, 20, 0⟩, ⟨true, false, false⟩) := by decide

/-- V40.8: the section of the acquisition restores the mask. -/
theorem test_tick_restores_mask :
    probe (fun t => (t.prioMask, t.txn.busy)) .tick { State.reset with prioMask := 1 } = some (1, true) := by decide

/-- V40.6. -/
theorem test_pollBusy :
    probe (fun t => t.env.trace) .pollBusy (engineAt .write 0 .x ⟨true, true, false⟩) = some [.busy true] := by
  decide

/-- V41.38: the step number stays. -/
theorem test_busTimeout :
    probe (fun t => (t.txn.busy, t.txn.step, t.ien, t.env.trace)) .busTimeout
      { readAt 2 .y ⟨true, false, false⟩ with env := { State.reset.env with cfg := tableConfig } } =
      some (false, 2, ⟨false, false, false⟩, [.ctlStop, .txnFailed .read 2]) := by decide

/-- V41.39. -/
theorem test_busTimeout_idle :
    exec .busTimeout (withConfig tableConfig) = .next (withConfig tableConfig) := rfl

/-! ### BUS_EVENT and its rows (V41) -/

/-- V41.8: one step, not two. -/
theorem test_busEvent_runs_one_step :
    probe (fun t => (t.txn.step, t.env.trace)) (.busEvent 0x03 0) (engineAt .write 0 .x ⟨true, true, false⟩) =
      some (1, [.drWrite 0x38]) := by decide

/-- V41.34: held by the mask. -/
theorem test_busEvent_masked :
    probe (fun t => (t.txn.step, t.bus.pend, t.env.trace)) (.busEvent 0x02 0)
      { engineAt .write 1 .x ⟨true, true, false⟩ with prioMask := 1 } = some (1, true, []) := by decide

/-- V41.7. -/
theorem test_w1 :
    probe (fun t => (t.txn.step, t.env.trace)) (.busEventW1 0x39 0) (engineAt .write 0 .x ⟨true, true, false⟩) =
      some (1, [.drWrite 0x38]) := by decide

/-- V41.9: `ien.tx` still 1. -/
theorem test_w2 :
    probe (fun t => (t.txn.step, t.ien.tx, t.env.trace)) (.busEventW2 0x02 0)
      (engineAt .write 1 .x ⟨true, true, false⟩) = some (2, true, [.clrAddr, .drWrite 0x20]) := by decide

/-- V41.11. -/
theorem test_w3 :
    probe (fun t => (t.txn.step, t.ien, t.env.trace)) (.busEventW3 0x80 0)
      (engineAt .write 2 .x ⟨true, true, false⟩) = some (3, ⟨true, false, false⟩, [.drWrite 0x47]) := by decide

/-- V41.14: TXE is held once W3 has disarmed it. -/
theorem test_w3_disarmed :
    probe (fun t => (t.txn.step, t.bus.pend)) (.busEventW3 0x80 0) (engineAt .write 3 .x ⟨true, false, false⟩) =
      some (3, true) := by decide

/-- V41.15. -/
theorem test_w4 :
    probe (fun t => (t.txn.busy, t.txn.step, t.ien, t.env.trace)) (.busEventW4 0x04 0)
      (engineAt .write 3 .x ⟨true, false, false⟩) =
      some (false, 4, ⟨false, false, false⟩, [.ctlStop, .writeComplete]) := by decide

/-- V41.17. -/
theorem test_rd1 :
    probe (fun t => (t.txn.step, t.env.trace)) (.busEventRd1 0x01 0) (readAt 0 .y ⟨true, false, false⟩) =
      some (1, [.drWrite 0x38]) := by decide

/-- V41.19. -/
theorem test_rd2 :
    probe (fun t => (t.txn.step, t.env.trace)) (.busEventRd2 0x02 0) (readAt 1 .y ⟨true, false, false⟩) =
      some (2, [.clrAddr, .drWrite 0x2B]) := by decide

/-- V41.21. -/
theorem test_rd3 :
    probe (fun t => (t.txn.step, t.env.trace)) (.busEventRd3 0x04 0) (readAt 2 .x ⟨true, false, false⟩) =
      some (3, [.ctlStart]) := by decide

/-- V41.23. -/
theorem test_rd4 :
    probe (fun t => (t.txn.step, t.bus.ack, t.env.trace)) (.busEventRd4 0x01 0)
      { readAt 3 .x ⟨true, false, false⟩ with bus := ⟨true, 0, 0, false⟩ } =
      some (4, false, [.drWrite 0x39, .ctlNack]) := by decide

/-- V41.25: no STOP on Y. -/
theorem test_rd5_y :
    probe (fun t => (t.txn.step, t.ien, t.env.trace)) (.busEventRd5 0x02 0) (readAt 4 .y ⟨true, false, false⟩) =
      some (5, ⟨true, false, true⟩, [.clrAddr]) := by decide

/-- V41.26: STOP on Z. -/
theorem test_rd5_z :
    probe (fun t => (t.txn.step, t.ien, t.env.trace)) (.busEventRd5 0x02 0) (readAt 4 .z ⟨true, false, false⟩) =
      some (5, ⟨true, false, true⟩, [.clrAddr, .ctlStop]) := by decide

/-- V41.28 with the byte 11. -/
theorem test_rd6_x :
    probe (fun t => (t.txn, t.ien, t.env.trace)) (.busEventRd6 0x40 0x0B) (readAt 5 .x ⟨true, false, true⟩) =
      some (⟨.read, true, 0, 0x2B, 0x47, .y, ⟨11, 20, 0⟩⟩, ⟨true, false, false⟩, [.drRead 11, .ctlStart]) := by
  decide

/-- V41.30. -/
theorem test_rd6_z :
    probe (fun t => (t.txn.busy, t.txn.step, t.ien, t.env.trace)) (.busEventRd6 0x40 0x1E)
      (readAt 5 .z ⟨true, false, true⟩) =
      some (false, 6, ⟨false, false, false⟩, [.drRead 30, .readComplete 10 20 30]) := by decide

/-- V41.35, V41.36. -/
theorem test_undefined_pairs :
    probe (fun t => (t.halt, t.bus.pend, t.env.trace)) (.busEventUndefined 0x01 0)
      (engineAt .write 4 .x ⟨true, false, false⟩) = some (some .sequencing, false, [.fatal .sequencing]) ∧
    probe (fun t => t.halt) (.busEventUndefined 0x04 0) (readAt 7 .x ⟨true, false, false⟩) =
      some (some .sequencing) := by decide

/-- V41.37. -/
theorem test_event_while_idle :
    probe (fun t => t.halt) (.busEventUndefined 0x01 0) { State.reset with ien := ⟨true, false, false⟩ } =
      some (some .sequencing) := by decide

/-- P1, one stimulus at a time. -/
theorem test_write_events :
    probe (fun t => t.txn.step) .evSb (engineAt .write 0 .x ⟨true, true, false⟩) = some 1 ∧
    probe (fun t => t.txn.step) .evAddr (engineAt .write 1 .x ⟨true, true, false⟩) = some 2 ∧
    probe (fun t => t.txn.step) .evTxe (engineAt .write 2 .x ⟨true, true, false⟩) = some 3 ∧
    probe (fun t => t.txn.step) .evBtf (engineAt .write 3 .x ⟨true, false, false⟩) = some 4 := by decide

/-- V41.29 with the byte 21. -/
theorem test_evRxne :
    probe (fun t => (t.txn.register, t.txn.readings)) (.evRxne 0x15) (readAt 5 .y ⟨true, false, true⟩) =
      some (0x2D, ⟨10, 21, 0⟩) := by decide

/-! ### The transmit path (V42, V60) -/

/-- V42.1. -/
theorem test_enqueue_idle :
    probe (fun t => (t.q, t.dma, t.env.trace)) (.enqueue 0x20000100 5) State.reset =
      some (⟨1, 1, [(0, ⟨0x20000100, 5⟩)]⟩, ⟨0x20000100, 5, true, false⟩, [.dmaStart 0x20000100 5]) := by decide

/-- V42.11: the index wraps. -/
theorem test_enqueue_wraps :
    probe (fun t => (t.q.head, t.q.tail, t.env.trace)) (.enqueue 0x10 1)
      (sending ⟨1024, 1024, []⟩ ⟨0, 1, true, false⟩ State.reset) = some (1024, 0, []) := by decide

/-- V42.5. -/
theorem test_enqueue_empty : exec (.enqueue 0x10 0) State.reset = .refused .zeroLengthMessage := rfl

/-- R76: the second message was enqueued after the change, so its bytes are those in memory, `Hell!`. -/
theorem test_breach_ends_with_its_message :
    probe (fun t => (t.env.stale, sentBytes t)) .xferDone breached =
      some ([], [0x48, 0x65, 0x6C, 0x6C, 0x21]) := by decide

/-- R76: a store that changes a byte of two pending messages breaks the contract of each; one that changes none,
of neither. -/
theorem test_store_breaks_each_message :
    (callerStore 0x20000104 0x22 { breached with env := { breached.env with stale := [] } }).env.stale =
      [⟨0, 0x20000104, 0x21⟩, ⟨1, 0x20000104, 0x21⟩] ∧
    (callerStore 0x20000104 0x21 breached).env.stale = breached.env.stale := by decide

/-- V42.8. -/
theorem test_xferDone_starts_next :
    probe (fun t => (t.q.head, t.q.tail, t.dma, t.env.trace)) .xferDone twoSending =
      some (2, 2, ⟨0x20000200, 3, true, false⟩,
        [.dmaStart 0x20000100 5, .txBytes [0x48, 0x65, 0x6C, 0x6C, 0x6F], .dmaAck, .dmaStart 0x20000200 3]) := by
  decide

/-- V42.12: the address wraps at 2^32. -/
theorem test_xferDone_wraps :
    probe (fun t => t.env.trace) .xferDone
      { sending ⟨1, 1, []⟩ ⟨0xFFFFFFFE, 4, true, false⟩ State.reset with
        env := { State.reset.env with mem := [(0, 3), (1, 4), (0xFFFFFFFE, 1), (0xFFFFFFFF, 2)] } } =
      some [.txBytes [1, 2, 3, 4], .dmaAck] := by decide

/-- V60.5: the halt loop sends its descriptor. -/
theorem test_halt_emit :
    haltEmit
      { State.reset with
        halt := some .sequencing
        env := { State.reset.env with
          cfg := { Config.default with diagSequencing := ⟨0x08001000, 12⟩ } } } =
      exec (.enqueue 0x08001000 12)
        { State.reset with
          halt := some .sequencing
          env := { State.reset.env with
            cfg := { Config.default with diagSequencing := ⟨0x08001000, 12⟩ } } } := rfl

/-! ### The critical section (V43) -/

/-- V43.1, V43.2. -/
theorem test_csEnter :
    probe (fun t => (t.prioMask, t.env.trace)) (.csEnter 2) State.reset = some (2, [.prior 0]) ∧
    probe (fun t => (t.prioMask, t.env.trace)) (.csEnter 1) { State.reset with prioMask := 2 } =
      some (2, [.prior 2]) := by decide

/-- R107: CS_BEGIN raises to `P_CS`. -/
theorem test_csBegin : probe (fun t => t.prioMask) .csBegin State.reset = some 2 := by decide

/-- V43.5: the completion first. -/
theorem test_csExit_order :
    probe (fun t => (t.dma.tc, t.txn.step, t.bus.pend, t.env.trace)) (.csExit 0) (bothHeld 1 2) =
      some (false, 1, false, [.dmaAck, .drWrite 0x38]) := by decide

/-- V43.6: only the completion. -/
theorem test_csExit_partial :
    probe (fun t => (t.dma.tc, t.txn.step, t.bus.pend, t.env.trace)) (.csExit 1) (bothHeld 1 2) =
      some (false, 0, true, [.dmaAck]) := by decide

/-! ### Reset and fetch -/

theorem test_reset_memory_wf : Memory.wf State.reset.env.mem = true := by decide

theorem test_hello_memory_wf : Memory.wf hello = true := by decide

/-- The first stimulus after reset (V40.5). -/
theorem test_first_step :
    (match step (State.reset.withFetchWord 64 0x0300000000000000) with
      | .next t => some t.env.trace
      | _ => none) = some [.busy false] := by decide

/-- U6: an invalid word is refused by name. -/
theorem test_invalid_word :
    step (State.reset.withFetchWord 64 0x0400000000000000) =
      .refused (.invalidStimulus (.reservedOpcode 0x04)) := rfl

/-! ### Witnesses: the hypotheses of each obligation are met -/

theorem witness_EncodedStimuliDecodeBack :
    Instr.wellFormed Config.default (.beginWrite 0xFF 0xFF) = true ∧ Instr.wellFormed tableConfig .busTimeout = true ∧
    encode Config.default .csBegin = encode Config.default (.csEnter 2) := by decide

theorem witness_DecodedWordsAreTheStimulusWord : decode tableConfig 0x8200000000000000 = .ok .busTimeout := rfl

/-- One word for each clause, its operands at their largest values. -/
theorem witness_OperandsAreTheirFields :
    decode Config.default 0x01FF00FF00000000 = .ok (.beginWrite 0xFF 0xFF) ∧
    decode Config.default 0x80FF00FF00000000 = .ok (.busEvent 0xFF 0xFF) ∧
    decode Config.default 0x1000FFFFFFFFFFFF = .ok (.enqueue 0xFFFFFFFF 0xFFFF) ∧
    decode Config.default 0x20FF000000000000 = .ok (.csEnter 0xFF) ∧
    decode Config.default 0x21FF000000000000 = .ok (.csExit 0xFF) := ⟨rfl, rfl, rfl, rfl, rfl⟩

theorem witness_StepRunsTheNextStimulus :
    (State.reset.withFetchWord 64 0x0300000000000000).env.inputs = .word 0x0300000000000000 :: [] ∧
    decode Config.default 0x0300000000000000 = .ok .pollBusy ∧
    decode Config.default 0x0400000000000000 = .error (.reservedOpcode 0x04) ∧
    State.reset.env.inputs = [] := ⟨rfl, rfl, rfl, rfl⟩

theorem witness_HaltLoopEnqueuesTheDiagnostic :
    (haltedState.setInputs [.haltEmit]).env.inputs = .haltEmit :: [] ∧ haltedState.halt = some .precondition ∧
    (diagDesc haltedState.env.cfg .precondition).len ≠ 0 ∧ State.reset.halt = none := by decide

/-- A store into the message in flight that changes a byte, and one at the byte after it. -/
theorem witness_CallerStoresOneByte :
    (oneSending.setInputs [.store 0x20000104 0x21]).env.inputs = .store 0x20000104 0x21 :: [] ∧
    Memory.wf oneSending.env.mem = true ∧ memByte oneSending.env.mem 0x20000104 ≠ 0x21 ∧
    (pending oneSending)[0]?.any (covers 0x20000104) = true ∧
    (pending oneSending).any (covers 0x20000105) = false := by decide

theorem witness_BeginWriteArmsTheWrite : State.reset.halt = none ∧ State.reset.txn.busy = false := by decide

theorem witness_BeginReadArmsTheRead :
    State.reset.halt = none ∧ State.reset.txn.busy = false ∧ xferReq { bothHeld 1 2 with prioMask := 1 } = true := by
  decide

theorem witness_BeginWhileBusyIsFatal :
    (readAt 5 .y ⟨true, false, true⟩).halt = none ∧ (readAt 5 .y ⟨true, false, true⟩).txn.busy = true := by decide

theorem witness_PollBusyAnswers : State.reset.halt = none ∧ busReq State.reset = false := by decide

theorem witness_HaltedIgnoresAllButTransmit :
    haltedState.halt ≠ none ∧ Instr.wellFormed haltedState.env.cfg (.csEnter 2) = true ∧
    (∀ r l, Instr.csEnter 2 ≠ .enqueue r l) ∧ Instr.csEnter 2 ≠ .xferDone :=
  ⟨by decide, by decide, fun _ _ h => Instr.noConfusion h, by decide⟩

theorem witness_BusTimeoutAborts :
    tableConfig.hasTimeout = true ∧ Config.default.hasTimeout = false ∧ (withConfig tableConfig).halt = none ∧
    (withConfig tableConfig).txn.busy = false ∧ (readAt 5 .x ⟨true, false, true⟩).txn.busy = true ∧
    (readAt 5 .x ⟨true, false, true⟩).halt = none := by decide

/-- One state for each clause; the awaited flag beside every other bit. -/
theorem witness_HandlerRunsWriteSteps :
    (engineAt .write 0 .x ⟨true, true, false⟩).txn.busy = true ∧
    (engineAt .write 0 .x ⟨true, true, false⟩).txn.direction = .write ∧
    (engineAt .write 1 .x ⟨true, true, false⟩).txn.step = 1 ∧
    (engineAt .write 2 .x ⟨true, true, false⟩).txn.step = 2 ∧
    observed .sb 0xFF = true ∧ observed .addr 0x02 = true ∧ observed .txe 0x80 = true := by decide

theorem witness_HandlerRunsReadSteps :
    (readAt 0 .x ⟨true, false, false⟩).txn.busy = true ∧ (readAt 0 .x ⟨true, false, false⟩).txn.direction = .read ∧
    (readAt 2 .x ⟨true, false, false⟩).txn.step = 2 ∧ (readAt 4 .z ⟨true, false, false⟩).txn.step = 4 ∧
    observed .sb 0x01 = true ∧ observed .btf 0x04 = true ∧ observed .addr 0xFF = true := by decide

/-- Without the awaited flag, and with it beside none and all of the others. -/
theorem witness_UnrelatedFlagIsNoOp :
    observed (awaited .w2) 0x02 = observed (awaited .w2) 0xFF ∧
    (engineAt .write 1 .x ⟨true, true, false⟩).txn.busy = true ∧ stepAt .write 1 = some .w2 ∧
    observed (awaited .w2) 0xFD = false ∧ stepAt .write 3 = some .w4 ∧ stepAt .read 5 = some .rd6 ∧
    observed (awaited .rd6) 0xBF = false := by decide

/-- A state that meets the invariants, busy at the last defined step. -/
theorem readAt5_invariants : Invariants (readAt 5 .y ⟨true, false, true⟩) := by
  refine ⟨?_, ?_, ?_, ?_, ?_, ?_, ?_, ?_, ?_, ?_, ?_, ?_, ?_, ?_⟩ <;> decide

/-- The first and the last undefined step of each direction, and the last defined ones. -/
theorem witness_UndefinedPairIsFatal :
    (engineAt .write 4 .x ⟨true, false, false⟩).txn.busy = true ∧ stepAt .write 3 ≠ none ∧ stepAt .write 4 = none ∧
    stepAt .write 7 = none ∧ stepAt .read 5 ≠ none ∧ stepAt .read 6 = none ∧ stepAt .read 7 = none ∧
    (readAt 5 .y ⟨true, false, true⟩).txn.busy = true := by decide

/-- Held by the gate, and by a mask just at `P_BUS`. -/
theorem witness_HeldPresentationIsOnlyLatched :
    presentation (.evRxne 0x55) = some (0x40, 0x55) ∧ (engineAt .write 0 .x ⟨true, true, false⟩).halt = none ∧
    gate ⟨true, true, false⟩ 0x40 = false ∧ gate ⟨true, true, false⟩ 0x01 = true ∧
    Config.default.pBus ≤ (1 : Level) := by decide

theorem witness_UnrelatedPresentationIsNoOp :
    presentation .evAddr = some (0x02, 0) ∧ (engineAt .write 0 .x ⟨true, true, false⟩).txn.busy = true ∧
    stepAt .write 0 = some .w1 ∧ gate ⟨true, true, false⟩ 0x02 = true ∧ (0 : Level) < Config.default.pBus ∧
    observed (awaited .w1) 0x02 = false := by decide

/-- Both directions, the flag alone and beside every other bit, the mask one below `P_BUS`. -/
theorem witness_StartSentTransmitsTheAddress :
    (engineAt .write 0 .x ⟨true, true, false⟩).halt = none ∧ (engineAt .write 0 .x ⟨true, true, false⟩).txn.step = 0 ∧
    (engineAt .write 0 .x ⟨true, true, false⟩).txn.direction = .write ∧
    (readAt 0 .x ⟨true, false, false⟩).txn.direction = .read ∧ (readAt 0 .x ⟨true, false, false⟩).ien.evt = true ∧
    (readAt 0 .x ⟨true, false, false⟩).txn.busy = true ∧ (0 : Level) < Config.default.pBus ∧
    observed .sb 0x01 = true ∧ observed .sb 0xFF = true := by decide

theorem witness_AddressedWriteSendsTheRegister :
    (engineAt .write 1 .x ⟨true, true, false⟩).halt = none ∧ (engineAt .write 1 .x ⟨true, true, false⟩).txn.step = 1 ∧
    (engineAt .write 1 .x ⟨true, true, false⟩).txn.direction = .write ∧
    (engineAt .write 1 .x ⟨true, true, false⟩).txn.busy = true ∧
    (engineAt .write 1 .x ⟨true, true, false⟩).ien.evt = true ∧ (0 : Level) < Config.default.pBus ∧
    observed .addr 0x02 = true := by decide

/-- With `ien.tx`, and without it with BTF beside TXE. -/
theorem witness_EmptyTransmitterSendsTheValue :
    (engineAt .write 2 .x ⟨true, true, false⟩).halt = none ∧ (engineAt .write 2 .x ⟨true, true, false⟩).txn.step = 2 ∧
    (engineAt .write 2 .x ⟨true, true, false⟩).txn.direction = .write ∧
    (engineAt .write 2 .x ⟨true, true, false⟩).txn.busy = true ∧ gate ⟨true, true, false⟩ 0x80 = true ∧
    gate ⟨true, false, false⟩ 0x84 = true ∧ (0 : Level) < Config.default.pBus ∧ observed .txe 0x80 = true ∧
    observed .txe 0x84 = true := by decide

theorem witness_FinishedWriteReleasesAndNotifies :
    (engineAt .write 3 .x ⟨true, false, false⟩).halt = none ∧
    (engineAt .write 3 .x ⟨true, false, false⟩).txn.step = 3 ∧
    (engineAt .write 3 .x ⟨true, false, false⟩).txn.direction = .write ∧
    (engineAt .write 3 .x ⟨true, false, false⟩).txn.busy = true ∧
    (engineAt .write 3 .x ⟨true, false, false⟩).ien.evt = true ∧ (0 : Level) < Config.default.pBus ∧
    observed .btf 0x04 = true := by decide

theorem witness_AddressedReadSelectsTheAxis :
    (readAt 1 .z ⟨true, false, false⟩).halt = none ∧ (readAt 1 .z ⟨true, false, false⟩).txn.step = 1 ∧
    (readAt 1 .z ⟨true, false, false⟩).txn.direction = .read ∧ (readAt 1 .z ⟨true, false, false⟩).txn.busy = true ∧
    (readAt 1 .z ⟨true, false, false⟩).ien.evt = true ∧ (0 : Level) < Config.default.pBus ∧
    observed .addr 0x02 = true := by decide

theorem witness_SelectedReadRepeatsTheStart :
    (readAt 2 .z ⟨true, false, false⟩).halt = none ∧ (readAt 2 .z ⟨true, false, false⟩).txn.step = 2 ∧
    (readAt 2 .z ⟨true, false, false⟩).txn.direction = .read ∧ (readAt 2 .z ⟨true, false, false⟩).txn.busy = true ∧
    (readAt 2 .z ⟨true, false, false⟩).ien.evt = true ∧ (0 : Level) < Config.default.pBus ∧
    observed .btf 0x04 = true := by decide

theorem witness_RepeatedStartArmsNack :
    (readAt 3 .x ⟨true, false, false⟩).halt = none ∧ (readAt 3 .x ⟨true, false, false⟩).txn.step = 3 ∧
    (readAt 3 .x ⟨true, false, false⟩).txn.direction = .read ∧ (readAt 3 .x ⟨true, false, false⟩).txn.busy = true ∧
    (readAt 3 .x ⟨true, false, false⟩).ien.evt = true ∧ (0 : Level) < Config.default.pBus ∧
    observed .sb 0x01 = true := by decide

theorem witness_AddressedReceiveArmsTheByteSource :
    (readAt 4 .z ⟨true, false, false⟩).halt = none ∧ (readAt 4 .z ⟨true, false, false⟩).txn.step = 4 ∧
    (readAt 4 .z ⟨true, false, false⟩).txn.direction = .read ∧ (readAt 4 .z ⟨true, false, false⟩).txn.busy = true ∧
    (readAt 4 .z ⟨true, false, false⟩).ien.evt = true ∧ (0 : Level) < Config.default.pBus ∧
    observed .addr 0x02 = true := by decide

/-- The three axes, the gate open by `ien.rx` and by BTF beside RXNE. -/
theorem witness_ReceivedByteIsStored :
    (readAt 5 .x ⟨true, false, true⟩).halt = none ∧ (readAt 5 .x ⟨true, false, true⟩).txn.step = 5 ∧
    (readAt 5 .x ⟨true, false, true⟩).txn.direction = .read ∧ (readAt 5 .x ⟨true, false, true⟩).txn.busy = true ∧
    (readAt 5 .x ⟨true, false, true⟩).txn.currentAxis = .x ∧ (readAt 5 .y ⟨true, false, true⟩).txn.currentAxis = .y ∧
    (readAt 5 .z ⟨true, false, true⟩).txn.currentAxis = .z ∧ gate ⟨true, false, true⟩ 0x40 = true ∧
    gate ⟨true, false, false⟩ 0x44 = true ∧ (0 : Level) < Config.default.pBus ∧ observed .rxne 0x40 = true := by
  decide

/-- At an undefined pair, and with no transaction busy; without and with a completion pending. -/
theorem witness_UndefinedPresentationHalts :
    (engineAt .write 7 .x ⟨true, false, false⟩).halt = none ∧ stepAt .write 7 = none ∧ stepAt .read 6 = none ∧
    State.reset.txn.busy = false ∧ gate ⟨true, false, false⟩ 0x01 = true ∧ (0 : Level) < Config.default.pBus ∧
    (engineAt .write 7 .x ⟨true, false, false⟩).dma.tc = false ∧ (bothHeld 1 2).dma.tc = true := by decide

/-- Running and halted, with an empty queue and with one message left over from before the halt. -/
theorem witness_EnqueueOnIdleStarts :
    (5 : Len) ≠ 0 ∧ queueFull State.reset = false ∧ idle State.reset = true ∧ NoBusHandler State.reset ∧
    queueEmpty State.reset = true ∧ cellsWf noDesc State.reset.q.slots = true ∧
    queueFull (sending ⟨0, 1, [(0, ⟨8, 1⟩)]⟩ ⟨0, 0, false, false⟩ haltedState) = false ∧
    idle (sending ⟨0, 1, [(0, ⟨8, 1⟩)]⟩ ⟨0, 0, false, false⟩ haltedState) = true ∧ NoBusHandler haltedState :=
  ⟨by decide, by decide, by decide, .inr (by decide), by decide, by decide, by decide, by decide, .inl (by decide)⟩

/-- In flight, V42.3 (a completion held by the mask), and a completion left pending by the fatal halt. -/
theorem witness_EnqueueOnBusyOnlyAppends :
    queueFull oneSending = false ∧ idle oneSending = false ∧ NoBusHandler oneSending ∧
    willComplete oneSending = false ∧ idle (bothHeld 1 2) = false ∧ NoBusHandler (bothHeld 1 2) ∧
    willComplete (bothHeld 1 2) = false ∧ idle { bothHeld 1 2 with halt := some .precondition } = false ∧
    NoBusHandler { bothHeld 1 2 with halt := some .precondition } ∧
    willComplete { bothHeld 1 2 with halt := some .precondition } = true :=
  ⟨by decide, by decide, .inr (by decide), by decide, by decide, .inr (by decide), by decide, by decide,
    .inl (by decide), by decide⟩

/-- V42.4: `QCAP = 2` and two messages queued; the same with a completion left pending by the fatal halt. -/
theorem witness_EnqueueOnFullDrops :
    queueFull (sending ⟨1, 0, [(1, ⟨0x1001, 1⟩), (2, ⟨0x1002, 1⟩)]⟩ ⟨0x1000, 1, true, false⟩
      (withConfig { Config.default with qcap := 2 })) = true ∧
    NoBusHandler (withConfig { Config.default with qcap := 2 }) ∧
    willComplete (withConfig { Config.default with qcap := 2 }) = false ∧
    queueFull (sending ⟨1, 0, [(1, ⟨0x1001, 1⟩), (2, ⟨0x1002, 1⟩)]⟩ ⟨0x1000, 1, false, true⟩
      { withConfig { Config.default with qcap := 2 } with halt := some .precondition }) = true ∧
    willComplete (sending ⟨1, 0, [(1, ⟨0x1001, 1⟩), (2, ⟨0x1002, 1⟩)]⟩ ⟨0x1000, 1, false, true⟩
      { withConfig { Config.default with qcap := 2 } with halt := some .precondition }) = true :=
  ⟨by decide, .inr (by decide), by decide, by decide, by decide⟩

theorem breached_invariants : Invariants breached := by
  refine ⟨?_, ?_, ?_, ?_, ?_, ?_, ?_, ?_, ?_, ?_, ?_, ?_, ?_, ?_⟩ <;> decide

/-- Each clause: the mask just at `P_XFER`; just below it with an empty and a filled queue; halted; idle. -/
theorem witness_XferDoneSendsAndServes :
    oneSending.dma.active = true ∧ NoBusHandler oneSending ∧ oneSending.halt = none ∧
    oneSending.env.cfg.pXfer ≤ (2 : Level) ∧ (1 : Level) < oneSending.env.cfg.pXfer ∧
    queueEmpty oneSending = true ∧ queueEmpty twoSending = false ∧ haltedState.halt ≠ none ∧
    NoBusHandler haltedState ∧ State.reset.dma.active = false ∧
    (∀ c ∈ oneSending.env.stale, c.message ≠ 0) ∧ ∃ c ∈ breached.env.stale, c.message = 0 :=
  ⟨by decide, .inr (by decide), by decide, by decide, by decide, by decide, by decide, by decide,
    .inl (by decide), by decide, by decide, by decide⟩

/-- A breach of another message and one at the byte after the message; a breach of the message in flight at its last
byte; an accepted ENQUEUE. -/
theorem witness_SentBytesAreTheMessage :
    (⟨1, 0x20000104, 0x6F⟩ : Breach).message ≠ 0 ∧ covers 0x20000105 ⟨breached.dma.src, breached.dma.len⟩ = false ∧
    4 < breached.dma.len.toNat ∧ covers 0x20000104 ⟨breached.dma.src, breached.dma.len⟩ = true ∧
    Invariants breached ∧ queueFull breached = false ∧ ∃ t, exec (.enqueue 0x20000100 5) breached = .next t :=
  ⟨by decide, by decide, by decide, by decide, breached_invariants, by decide, _, rfl⟩

theorem witness_CsEnterRaisesTheMask :
    State.reset.halt = none ∧ busReq State.reset = false ∧ xferReq State.reset = false ∧
    (2 : Level) = State.reset.env.cfg.pCs := by decide

/-- Each of the five clauses: nothing, the completion alone, the event alone (no completion, one that the mask holds,
one that a fatal bus handler leaves to be handled), both with either order of levels. -/
theorem witness_CsExitDeliversByPriority :
    (bothHeld 1 2).halt = none ∧ busReq ((bothHeld 1 2).setMask 5) = false ∧
    xferReq ((bothHeld 1 2).setMask 5) = false ∧
    busReq ((bothHeld 1 2).setMask 1) = false ∧ xferReq ((bothHeld 1 2).setMask 1) = true ∧
    busReq ({ bothHeld 1 2 with dma := ⟨0, 1, false, false⟩ }.setMask 0) = true ∧
    busReq ((bothHeld 2 1).setMask 1) = true ∧ xferReq ((bothHeld 2 1).setMask 1) = false ∧
    (onBusEvent 0x01 0 ((bothHeld 2 1).setMask 1)).halt = none ∧
    (onBusEvent 0x01 0 ({ bothHeld 2 1 with txn := (engineAt .write 7 .x ⟨true, true, false⟩).txn }.setMask 1)).halt ≠
      none ∧ (bothHeld 2 1).dma.tc = true ∧
    busReq ((bothHeld 1 2).setMask 0) = true ∧ xferReq ((bothHeld 1 2).setMask 0) = true ∧
    (1 : Level) < 2 ∧ busReq ((bothHeld 2 1).setMask 0) = true ∧ xferReq ((bothHeld 2 1).setMask 0) = true := by
  decide

/-- V43.8. -/
theorem witness_EqualLevelsAdmitEitherOrder :
    (bothHeld 1 1).halt = none ∧ (bothHeld 1 1).env.cfg.pBus = (bothHeld 1 1).env.cfg.pXfer ∧
    busReq ((bothHeld 1 1).setMask 0) = true ∧ xferReq ((bothHeld 1 1).setMask 0) = true := by decide

theorem witness_OnlySectionCommandsMoveTheMask :
    (∃ t, exec (.enqueue 0x10 1) State.reset = .next t) ∧ (∀ l, Instr.enqueue 0x10 1 ≠ .csEnter l) ∧
    (∀ l, Instr.enqueue 0x10 1 ≠ .csExit l) ∧ Instr.enqueue 0x10 1 ≠ .csBegin :=
  ⟨⟨_, rfl⟩, fun _ h => Instr.noConfusion h, fun _ h => Instr.noConfusion h, by decide⟩

theorem witness_HaltIsForEver :
    haltedState.halt = some .precondition ∧ ∃ t, step (haltedState.withFetchWord 64 0x1000000320000040) = .next t :=
  ⟨by decide, _, rfl⟩

/-- Both causes. -/
theorem witness_FatalCauses :
    (readAt 1 .x ⟨true, false, false⟩).halt = none ∧
    probe (fun t => t.halt) .tick (readAt 1 .x ⟨true, false, false⟩) = some (some .precondition) ∧
    (engineAt .write 4 .x ⟨true, false, false⟩).halt = none ∧
    probe (fun t => t.halt) .evSb (engineAt .write 4 .x ⟨true, false, false⟩) = some (some .sequencing) := by decide

theorem witness_ReadingsAreWrittenByRd6Only :
    probe (fun t => decide (t.txn.readings.get .y ≠ (readAt 5 .y ⟨true, false, true⟩).txn.readings.get .y))
      (.evRxne 0xFF) (readAt 5 .y ⟨true, false, true⟩) = some true := by decide

theorem witness_AckIsClearedByRd4Only :
    probe (fun t => decide (t.bus.ack ≠ true)) .evSb
      { readAt 3 .x ⟨true, false, false⟩ with bus := ⟨true, 0, 0, false⟩ } = some true := by decide

/-- A stimulus that is no ENQUEUE and starts a message, and one that starts none. -/
theorem witness_QueueWriters :
    (∀ r l, Instr.xferDone ≠ .enqueue r l) ∧ cellsWf noDesc twoSending.q.slots = true ∧ 1 ≠ twoSending.q.tail ∧
    probe (fun t => decide (started t = started oneSending)) .xferDone oneSending = some true :=
  ⟨fun _ _ h => Instr.noConfusion h, by decide, by decide, by decide⟩

theorem witness_NoStimulusWritesMessageMemory : ∃ t, exec .xferDone twoSending = .next t := ⟨_, rfl⟩

/-- V60.6, with a stale presentation, a POLL_BUSY and an ENQUEUE meanwhile. -/
theorem witness_StalledTransactionStaysStuck :
    (engineAt .write 1 .x ⟨true, true, false⟩).halt = none ∧
    (engineAt .write 1 .x ⟨true, true, false⟩).txn.busy = true ∧ stepAt .write 1 = some .w2 ∧
    (engineAt .write 1 .x ⟨true, true, false⟩).bus.pend = false ∧
    (∀ i ∈ [Instr.evSb, .pollBusy, .enqueue 0x10 1], isBegin i = false ∧ i ≠ .busTimeout ∧
      ∀ f d, presentation i = some (f, d) → observed (awaited .w2) f = false) ∧
    ∃ t, runAll [.evSb, .pollBusy, .enqueue 0x10 1] (engineAt .write 1 .x ⟨true, true, false⟩) = .next t := by
  refine ⟨by decide, by decide, by decide, by decide, ?_, _, rfl⟩
  simp only [List.mem_cons, List.not_mem_nil, or_false, forall_eq_or_imp, forall_eq, presentation,
    Option.some.injEq, Prod.mk.injEq]
  refine ⟨⟨rfl, by decide, ?_⟩, ⟨rfl, by decide, fun _ _ h => nomatch h⟩, rfl, by decide, fun _ _ h => nomatch h⟩
  rintro f d ⟨rfl, rfl⟩
  decide

/-- A state in the middle of two messages meets the invariants. -/
theorem twoSending_invariants : Invariants twoSending := by
  refine ⟨?_, ?_, ?_, ?_, ?_, ?_, ?_, ?_, ?_, ?_, ?_, ?_, ?_, ?_⟩ <;> decide

theorem witness_StepKeepsTheInvariants :
    Invariants (twoSending.withFetchWord 64 0x8100000000000000) ∧
    ∃ t, step (twoSending.withFetchWord 64 0x8100000000000000) = .next t := by
  refine ⟨⟨?_, ?_, ?_, ?_, ?_, ?_, ?_, ?_, ?_, ?_, ?_, ?_, ?_, ?_⟩, _, rfl⟩ <;> decide

theorem witness_AtMostOneTransferInFlight :
    Invariants twoSending ∧ tracePhase twoSending.env.trace = some (dmaPhase twoSending.dma) ∧
    Reaches twoSending twoSending := ⟨twoSending_invariants, by decide, .refl⟩

/-- An ENQUEUE that is accepted, and an XFER_DONE that starts the next message. -/
theorem witness_MessagesLeaveInOrder :
    Invariants twoSending ∧ accepted twoSending (.enqueue 0x20000300 1) = [⟨0x20000300, 1⟩] ∧
    (∃ t, exec (.enqueue 0x20000300 1) twoSending = .next t) ∧ ∃ t, exec .xferDone twoSending = .next t :=
  ⟨twoSending_invariants, by decide, ⟨_, rfl⟩, _, rfl⟩

/-- P4: `QCAP = 2`, the accelerator busy, the queue empty. -/
theorem witness_CapacityIsQcap :
    let s := sending ⟨1, 1, [(0, ⟨0x1000, 1⟩)]⟩ ⟨0x1000, 1, true, false⟩
      (withConfig { Config.default with qcap := 2 })
    Invariants s ∧ queueEmpty s = true ∧ s.dma.active = true ∧
    ([⟨0x1001, 1⟩, ⟨0x1002, 1⟩] : List Desc).length = s.env.cfg.qcap ∧
    ∀ d ∈ ([⟨0x1001, 1⟩, ⟨0x1002, 1⟩] : List Desc), d.len ≠ 0 := by
  refine ⟨⟨?_, ?_, ?_, ?_, ?_, ?_, ?_, ?_, ?_, ?_, ?_, ?_, ?_, ?_⟩, ?_, ?_, ?_, ?_⟩ <;> decide

/-- The flags alone (P1) and beside others (V41.8, P6). -/
theorem witness_WriteCompletesAfterFourFlags :
    State.reset.halt = none ∧ State.reset.txn.busy = false ∧ State.reset.prioMask < State.reset.env.cfg.pBus ∧
    observed .sb 0x03 = true ∧ observed .addr 0x82 = true ∧ observed .txe 0x84 = true ∧ observed .btf 0x04 = true := by
  decide

/-- The eighteen presentations of P2. -/
theorem witness_ReadCompletesAfterThreeLoops :
    let loop (d : Byte) : List (FlagVec × Byte) := [(0x01, 0), (0x02, 0), (0x04, 0), (0x01, 0), (0x02, 0), (0x40, d)]
    let ps := loop 10 ++ loop 20 ++ loop 30
    let fls : List Flag := [.sb, .addr, .btf, .sb, .addr, .rxne] ++ [.sb, .addr, .btf, .sb, .addr, .rxne] ++
      [.sb, .addr, .btf, .sb, .addr, .rxne]
    State.reset.prioMask < State.reset.env.cfg.pBus ∧ ps.length = 18 ∧
    ∀ (k : Nat) (fl : Flag) (p : FlagVec × Byte), fls[k]? = some fl → ps[k]? = some p → observed fl p.1 = true := by
  intro loop ps fls
  refine ⟨by decide, rfl, fun k fl p h1 h2 => ?_⟩
  have hz : (fls.zip ps)[k]? = some (fl, p) := by rw [List.getElem?_zip_eq_some]; exact ⟨h1, h2⟩
  exact List.all_eq_true.1 (show (fls.zip ps).all (fun c => observed c.1 c.2.1) = true by decide) _
    (List.mem_of_getElem? hz)

end Sys2Proof.Tests
end

/-! PROOFS. The rules about the whole machine and its invariants (10_state.md): who may write a field, what a halt
fixes, and what every step keeps. Each rests on one inversion per shared operation: `exec_handed` for a stimulus,
`step_cases` for a step, `onBusEvent_cases` for the bus handler, `deliver_engine` and `deliver_transmit` for the two
sides of `Deliver()`. -/

namespace Sys2Proof.Machine

/-! ### The bus handler, by the label of its step -/

/-- The step a label names, on one presentation (R141). -/
def runStep (f : FlagVec) (d : Byte) (s : State) : StepLabel → State
  | .w1 => stepW1 f s
  | .w2 => stepW2 f s
  | .w3 => stepW3 f s
  | .w4 => stepW4 f s
  | .rd1 => stepRd1 f s
  | .rd2 => stepRd2 f s
  | .rd3 => stepRd3 f s
  | .rd4 => stepRd4 f s
  | .rd5 => stepRd5 f s
  | .rd6 => stepRd6 f d s

/-- The bus handler runs the step its pair selects, or raises `Fatal(SEQUENCING)` (R141, R154, R155). -/
theorem onBusEvent_cases (f : FlagVec) (d : Byte) (s : State) :
    (∃ k, s.txn.busy = true ∧ stepAt s.txn.direction s.txn.step = some k ∧ onBusEvent f d s = runStep f d s k) ∨
    ((s.txn.busy = false ∨ stepAt s.txn.direction s.txn.step = none) ∧
      onBusEvent f d s = raiseFatal .sequencing s) := by
  cases hb : s.txn.busy with
  | false => exact .inr ⟨.inl rfl, by simp [onBusEvent, hb]⟩
  | true =>
    cases hk : stepAt s.txn.direction s.txn.step with
    | none => exact .inr ⟨.inr rfl, by simp [onBusEvent, hb, hk]⟩
    | some k => exact .inl ⟨k, rfl, rfl, by cases k <;> simp [onBusEvent, hb, hk, runStep]⟩

/-- A property of a state and of its image under a step's body holds after the step, flag or no flag (R142). -/
theorem onFlag_induct {P : State → Prop} {fl : Flag} {f : FlagVec} {body : State → State} {s : State}
    (hs : P s) (hbody : P (body s)) : P (onFlag fl f body s) := by
  unfold onFlag
  split
  · exact hbody
  · exact hs

theorem stepRd5_keeps (f : FlagVec) (s : State) :
    (stepRd5 f s).txn.readings = s.txn.readings ∧ (stepRd5 f s).bus = s.bus := by
  refine onFlag_induct (P := fun t => t.txn.readings = s.txn.readings ∧ t.bus = s.bus) ⟨rfl, rfl⟩ ?_
  by_cases hz : s.txn.currentAxis = .z <;> simp [hz]

theorem Readings.get_set_other {r : Readings} {b : Byte} {a c : Axis} (h : c ≠ a) : (r.set b c).get a = r.get a := by
  revert h
  cases a <;> cases c <;> simp [Readings.get, Readings.set]

/-- RD6 writes the slot of its own axis only, and not `bus.ack` (R27, R153). -/
theorem stepRd6_keeps (f : FlagVec) (d : Byte) (s : State) :
    (∀ a, s.txn.currentAxis ≠ a → (stepRd6 f d s).txn.readings.get a = s.txn.readings.get a) ∧
      (stepRd6 f d s).bus = s.bus := by
  refine onFlag_induct
    (P := fun t => (∀ a, s.txn.currentAxis ≠ a → t.txn.readings.get a = s.txn.readings.get a) ∧ t.bus = s.bus)
    ⟨fun _ _ => rfl, rfl⟩ ?_
  cases hn : nextAxis s.txn.currentAxis with
  | some b => exact ⟨fun a ha => Readings.get_set_other ha, rfl⟩
  | none => exact ⟨fun a ha => Readings.get_set_other ha, rfl⟩

/-- No step but RD6 writes a reading (R27). -/
theorem runStep_readings {k : StepLabel} (f : FlagVec) (d : Byte) (s : State) (hk : k ≠ .rd6) :
    (runStep f d s k).txn.readings = s.txn.readings := by
  cases k with
  | rd5 => exact (stepRd5_keeps f s).1
  | rd6 => exact absurd rfl hk
  | _ => exact onFlag_induct (P := fun t => t.txn.readings = s.txn.readings) rfl rfl

/-- No step but RD4 writes `bus.ack` (R31). -/
theorem runStep_ack {k : StepLabel} (f : FlagVec) (d : Byte) (s : State) (hk : k ≠ .rd4) :
    (runStep f d s k).bus.ack = s.bus.ack := by
  cases k with
  | rd4 => exact absurd rfl hk
  | rd5 => exact congrArg BusLatch.ack (stepRd5_keeps f s).2
  | rd6 => exact congrArg BusLatch.ack (stepRd6_keeps f d s).2
  | _ => exact onFlag_induct (P := fun t => t.bus.ack = s.bus.ack) rfl rfl

/-- The bus handler writes a reading at RD6 of its axis only (R27). -/
theorem onBusEvent_readings {f : FlagVec} {d : Byte} {s : State} {a : Axis}
    (h : (onBusEvent f d s).txn.readings.get a ≠ s.txn.readings.get a) :
    s.txn.busy = true ∧ stepAt s.txn.direction s.txn.step = some .rd6 ∧ s.txn.currentAxis = a := by
  rcases onBusEvent_cases f d s with ⟨k, hb, hk, e⟩ | ⟨-, e⟩
  · rw [e] at h
    have hk6 : k = .rd6 :=
      Decidable.byContradiction fun hne => h (by rw [runStep_readings f d s hne])
    subst hk6
    obtain ⟨hother, -⟩ := stepRd6_keeps f d s
    exact ⟨hb, hk, Decidable.byContradiction fun ha => h (hother a ha)⟩
  · exact absurd (by rw [e]; rfl) h

/-- The bus handler writes `bus.ack` at RD4 only, where it clears it (R31). -/
theorem onBusEvent_ack {f : FlagVec} {d : Byte} {s : State} (h : (onBusEvent f d s).bus.ack ≠ s.bus.ack) :
    (onBusEvent f d s).bus.ack = false ∧ s.txn.busy = true ∧ stepAt s.txn.direction s.txn.step = some .rd4 := by
  have hclear : (onBusEvent f d s).bus.ack = false := by
    obtain ⟨-, -, -, hset⟩ := onBusEvent_latch f d s
    cases ha : (onBusEvent f d s).bus.ack with
    | false => rfl
    | true => exact absurd (ha.trans (hset ha).symm) h
  rcases onBusEvent_cases f d s with ⟨k, hb, hk, e⟩ | ⟨-, e⟩
  · have hk4 : k = .rd4 :=
      Decidable.byContradiction fun hne => h (by rw [e, runStep_ack f d s hne])
    exact ⟨hclear, hb, hk4 ▸ hk⟩
  · exact absurd (by rw [e]; rfl) h

/-! ### `Deliver()`, one side at a time -/

/-- The engine after `Deliver()`: untouched, or as the bus handler leaves it (R194). -/
theorem deliver_engine (u : State) :
    ((deliver u).txn = u.txn ∧ (deliver u).ien = u.ien ∧ (deliver u).bus = u.bus ∧ (deliver u).halt = u.halt) ∨
      (busReq u = true ∧ BusDelivered u (deliver u)) := by
  by_cases h : NoBusHandler u
  · rw [deliver_noBus h]
    left
    split <;> simp
  · simp only [NoBusHandler, not_or, Decidable.not_not, Bool.not_eq_false] at h
    exact .inr ⟨h.2, deliver_busReq h.1 h.2⟩

/-- The transmit path after `Deliver()`: untouched, or as the completion handler leaves it (R194). -/
theorem deliver_transmit (u : State) :
    ((deliver u).q = u.q ∧ transmitTrace (deliver u) = transmitTrace u) ∨
      ((deliver u).q = (onTransferComplete u).q ∧
        transmitTrace (deliver u) = transmitTrace (onTransferComplete u)) := by
  by_cases h : NoBusHandler u
  · rw [deliver_noBus h]
    split
    · exact .inr ⟨rfl, rfl⟩
    · exact .inl ⟨rfl, rfl⟩
  · simp only [NoBusHandler, not_or, Decidable.not_not, Bool.not_eq_false] at h
    have hd := deliver_busReq h.1 h.2
    cases hw : willComplete (runBusHandler u) with
    | true =>
      obtain ⟨hq, -, ht⟩ := hd.served hw
      exact .inr ⟨hq, ht⟩
    | false =>
      obtain ⟨hq, -, ht, -⟩ := hd.left hw
      refine .inl ⟨hq, ?_⟩
      simp only [transmitTrace, ht]
      exact onBusEvent_transmitTrace u.bus.flags u.bus.data (u.setPend false)

/-! ### The states a stimulus hands to `Deliver()` -/

/-- `Handed s i u`: the stimulus `i` in state `s` hands the state `u` to its `Deliver()`. -/
inductive Handed (s : State) : Instr → State → Prop where
  | beginWrite {r v : Byte} (hh : s.halt = none) (hb : s.txn.busy = false) :
      Handed s (.beginWrite r v) (armedWrite r v s)
  | beginRead {i : Instr} (hi : i = .beginRead ∨ i = .tick) (hh : s.halt = none) (hb : s.txn.busy = false) :
      Handed s i (armedRead s)
  | pollBusy (hh : s.halt = none) : Handed s .pollBusy (s.emit (.busy s.txn.busy))
  | enqueue {r : Ref} {l : Len} (hl : l ≠ 0) : Handed s (.enqueue r l) (enqueueBody ⟨r, l⟩ s)
  | csEnter {i : Instr} {l : Level} (hi : i = .csEnter l ∨ (i = .csBegin ∧ l = s.env.cfg.pCs))
      (hh : s.halt = none) : Handed s i ((s.emit (.prior s.prioMask)).setMask (raisedMask s.prioMask l))
  | csExit {l : Level} (hh : s.halt = none) : Handed s (.csExit l) (s.setMask l)
  | present {i : Instr} {f : FlagVec} {d : Byte} (hi : presentation i = some (f, d)) (hh : s.halt = none) :
      Handed s i (s.latch f d)
  | xferDone (ha : s.dma.active = true) : Handed s .xferDone (completed s)
  | busTimeout (ht : s.env.cfg.hasTimeout = true) (hh : s.halt = none) (hb : s.txn.busy = true) :
      Handed s .busTimeout (aborted s)

/-- A stimulus with a next state changes nothing, is a fatal begin, or ends in the `Deliver()` of what it hands
over. -/
theorem exec_handed {i : Instr} {s t : State} (h : exec i s = .next t) :
    (t = s ∧ ∀ r l, i ≠ .enqueue r l) ∨
    (isBegin i = true ∧ s.halt = none ∧ s.txn.busy = true ∧ t = raiseFatal .precondition s) ∨
    ∃ u, Handed s i u ∧ t = deliver u := by
  rcases exec_cases h with hstay | hfatal | h
  · exact .inl hstay
  · exact .inr (.inl hfatal)
  · right; right
    rcases h with ⟨r, v, rfl, hh, hb, e⟩ | ⟨hi, hh, hb, e⟩ | ⟨rfl, hh, e⟩ | ⟨r, l, rfl, hl, e⟩ | ⟨l, hi, hh, e⟩ |
      ⟨l, rfl, hh, e⟩ | ⟨f, d, hi, hh, e⟩ | ⟨rfl, ha, e⟩ | ⟨rfl, ht, hh, hb, e⟩
    · exact ⟨_, .beginWrite hh hb, e⟩
    · exact ⟨_, .beginRead hi hh hb, e⟩
    · exact ⟨_, .pollBusy hh, e⟩
    · exact ⟨_, .enqueue hl, e⟩
    · exact ⟨_, .csEnter hi hh, e⟩
    · exact ⟨_, .csExit hh, e⟩
    · exact ⟨_, .present hi hh, e⟩
    · exact ⟨_, .xferDone ha, e⟩
    · exact ⟨_, .busTimeout ht hh hb, e⟩

/-- The mask a stimulus outside the section commands hands over is the one it found (R195). -/
theorem Handed.prioMask {i : Instr} {s u : State} (h : Handed s i u) (henter : ∀ l, i ≠ .csEnter l)
    (hexit : ∀ l, i ≠ .csExit l) (hbegin : i ≠ .csBegin) : u.prioMask = s.prioMask := by
  cases h with
  | enqueue =>
    obtain ⟨-, -, -, hmask, -⟩ := enqueueBody_keeps _ s
    exact hmask
  | csEnter hi =>
    rcases hi with hi | ⟨hi, -⟩
    · exact absurd hi (henter _)
    · exact absurd hi hbegin
  | csExit => exact absurd rfl (hexit _)
  | _ => rfl

/-- No stimulus writes a reading or `bus.ack` before its `Deliver()` (R27, R31, D26). -/
theorem Handed.readings_ack {i : Instr} {s u : State} (h : Handed s i u) :
    u.txn.readings = s.txn.readings ∧ u.bus.ack = s.bus.ack := by
  cases h with
  | enqueue =>
    obtain ⟨htxn, -, hbus, -⟩ := enqueueBody_keeps _ s
    rw [htxn, hbus]
    exact ⟨rfl, rfl⟩
  | _ => exact ⟨rfl, rfl⟩

/-- A stimulus whose `Deliver()` can run the bus handler has left the transaction as it was. -/
theorem Handed.txn_of_busReq {i : Instr} {s u : State} (h : Handed s i u) (hreq : busReq u = true) :
    u.txn = s.txn := by
  cases h with
  | @beginWrite r v =>
    obtain ⟨hno, -, -⟩ := no_busReq_after_begin r v s
    exact absurd (hno.symm.trans hreq) Bool.false_ne_true
  | beginRead =>
    obtain ⟨-, hno, -⟩ := no_busReq_after_begin 0 0 s
    exact absurd (hno.symm.trans hreq) Bool.false_ne_true
  | busTimeout =>
    obtain ⟨-, -, hno⟩ := no_busReq_after_begin 0 0 s
    exact absurd (hno.symm.trans hreq) Bool.false_ne_true
  | enqueue => exact (enqueueBody_keeps _ s).1
  | _ => rfl

/-! ### Who writes what -/

/-- Settles O45: what is handed to `Deliver()` has the old mask, and `Deliver()` keeps it. -/
theorem onlySectionCommandsMoveTheMask : Obligations.OnlySectionCommandsMoveTheMask := by
  intro i s t h henter hexit hbegin
  rcases exec_handed h with ⟨rfl, -⟩ | ⟨-, -, -, rfl⟩ | ⟨u, hu, rfl⟩
  · rfl
  · rfl
  · obtain ⟨-, hmask, -⟩ := deliver_keeps u
    exact hmask.trans (hu.prioMask henter hexit hbegin)

/-- Settles O48: a changed reading is the bus handler's, which writes one at RD6 only. -/
theorem readingsAreWrittenByRd6Only : Obligations.ReadingsAreWrittenByRd6Only := by
  intro i s t a h hne
  rcases exec_handed h with ⟨rfl, -⟩ | ⟨-, -, -, rfl⟩ | ⟨u, hu, rfl⟩
  · exact absurd rfl hne
  · exact absurd rfl hne
  · obtain ⟨hreadings, -⟩ := hu.readings_ack
    rcases deliver_engine u with ⟨htxn, -⟩ | ⟨hreq, hd⟩
    · exact absurd (by rw [htxn, hreadings]) hne
    · rw [hd.txn, ← hreadings] at hne
      have hw := onBusEvent_readings (s := u.setPend false) hne
      rwa [State.setPend_txn, hu.txn_of_busReq hreq] at hw

/-- Settles O49: a changed `bus.ack` is the bus handler's, which writes it at RD4 only. -/
theorem ackIsClearedByRd4Only : Obligations.AckIsClearedByRd4Only := by
  intro i s t h hne
  rcases exec_handed h with ⟨rfl, -⟩ | ⟨-, -, -, rfl⟩ | ⟨u, hu, rfl⟩
  · exact absurd rfl hne
  · exact absurd rfl hne
  · obtain ⟨-, hack⟩ := hu.readings_ack
    rcases deliver_engine u with ⟨-, -, hbus, -⟩ | ⟨hreq, hd⟩
    · exact absurd (by rw [hbus, hack]) hne
    · rw [hd.bus, ← hack] at hne
      have hw := onBusEvent_ack (s := u.setPend false) hne
      rw [State.setPend_txn, hu.txn_of_busReq hreq] at hw
      rw [hd.bus]
      exact hw

/-! ### The queue's writers -/

/-- The three ways of ENQUEUE's body: dropped, appended and started, or only appended (R173). -/
theorem enqueueBody_cases (d : Desc) (s : State) :
    (queueFull s = true ∧ enqueueBody d s = s) ∨
    (queueFull s = false ∧ idle s = true ∧ enqueueBody d s = startNext (appendDesc d s)) ∨
    (queueFull s = false ∧ idle s = false ∧ enqueueBody d s = appendDesc d s) := by
  have hi : idle (appendDesc d s) = idle s := rfl
  cases hf : queueFull s with
  | true => exact .inl ⟨rfl, by simp [enqueueBody, hf]⟩
  | false =>
    cases hidle : idle s with
    | true => exact .inr (.inl ⟨rfl, rfl, by simp [enqueueBody, hf, hi, hidle]⟩)
    | false => exact .inr (.inr ⟨rfl, rfl, by simp [enqueueBody, hf, hi, hidle]⟩)

/-- ENQUEUE's body writes no slot but the one at the tail (R37). -/
theorem slotAt_enqueueBody {s : State} {k : Nat} (d : Desc) (hw : cellsWf noDesc s.q.slots = true)
    (hk : k ≠ s.q.tail) : slotAt (enqueueBody d s) k = slotAt s k := by
  rcases enqueueBody_cases d s with ⟨-, e⟩ | ⟨-, -, e⟩ | ⟨-, -, e⟩ <;> rw [e]
  · exact cellGet_cellPut_other d hw hk
  · exact cellGet_cellPut_other d hw hk

/-- Only ENQUEUE writes the queue before its `Deliver()` (R37). -/
theorem Handed.q_eq {i : Instr} {s u : State} (h : Handed s i u) (hi : ∀ r l, i ≠ .enqueue r l) : u.q = s.q := by
  cases h with
  | enqueue => exact absurd rfl (hi _ _)
  | _ => rfl

theorem Handed.slotAt_eq {i : Instr} {s u : State} {k : Nat} (h : Handed s i u)
    (hw : cellsWf noDesc s.q.slots = true) (hk : k ≠ s.q.tail) : slotAt u k = slotAt s k := by
  cases h with
  | enqueue => exact slotAt_enqueueBody _ hw hk
  | _ => rfl

/-- `Deliver()` writes neither the tail nor the slots (R37, R175). -/
theorem deliver_tail_slots (u : State) : (deliver u).q.tail = u.q.tail ∧ (deliver u).q.slots = u.q.slots := by
  rcases deliver_transmit u with ⟨hq, -⟩ | ⟨hq, -⟩ <;> rw [hq]
  · exact ⟨rfl, rfl⟩
  · obtain ⟨hotc, -⟩ := otc_effect u
    rw [hotc]
    split <;> exact ⟨rfl, rfl⟩

/-- `t` has started more messages than `s`, or has the head of `s`: the head moves with a `DMA_START` only (R37). -/
def HeadFollowsStarts (s t : State) : Prop :=
  ∃ ds, started t = started s ++ ds ∧ (ds = [] → t.q.head = s.q.head)

theorem HeadFollowsStarts.of_eq {s t : State} (hs : started t = started s) (hh : t.q.head = s.q.head) :
    HeadFollowsStarts s t :=
  ⟨[], by rw [hs, List.append_nil], fun _ => hh⟩

theorem HeadFollowsStarts.trans {s t u : State} (h : HeadFollowsStarts s t) (h' : HeadFollowsStarts t u) :
    HeadFollowsStarts s u := by
  obtain ⟨ds, hds, hhead⟩ := h
  obtain ⟨es, hes, hhead'⟩ := h'
  refine ⟨ds ++ es, by rw [hes, hds, List.append_assoc], fun hnil => ?_⟩
  obtain ⟨hd, he⟩ := List.append_eq_nil_iff.1 hnil
  rw [hhead' he, hhead hd]

theorem HeadFollowsStarts.head_eq {s t : State} (h : HeadFollowsStarts s t) (hs : started t = started s) :
    t.q.head = s.q.head := by
  obtain ⟨ds, hds, hhead⟩ := h
  exact hhead (List.append_right_eq_self.1 (hds.symm.trans hs))

/-- An action other than `DMA_START` starts nothing. -/
theorem started_emit {s : State} {a : Action} (ha : startedDesc a = none) : started (s.emit a) = started s := by
  simp [started, ha]

theorem headFollowsStarts_startNext (s : State) : HeadFollowsStarts s (startNext s) :=
  ⟨[slotAt s s.q.head], by simp [started, startedDesc], by simp⟩

theorem headFollowsStarts_enqueueBody (d : Desc) (s : State) : HeadFollowsStarts s (enqueueBody d s) := by
  rcases enqueueBody_cases d s with ⟨-, e⟩ | ⟨-, -, e⟩ | ⟨-, -, e⟩ <;> rw [e]
  · exact .of_eq rfl rfl
  · exact headFollowsStarts_startNext (appendDesc d s)
  · exact .of_eq rfl rfl

theorem headFollowsStarts_otc (s : State) : HeadFollowsStarts s (onTransferComplete s) := by
  obtain ⟨hq, -⟩ := otc_effect s
  refine ⟨_, started_otc s, fun hnil => ?_⟩
  rw [hq]
  cases hn : startsNext s with
  | true => simp [hn] at hnil
  | false => rfl

theorem headFollowsStarts_deliver (u : State) : HeadFollowsStarts u (deliver u) := by
  rcases deliver_transmit u with ⟨hq, ht⟩ | ⟨hq, ht⟩
  · exact .of_eq (by rw [started_transmit, ht, ← started_transmit]) (by rw [hq])
  · have hotc := headFollowsStarts_otc u
    simp only [HeadFollowsStarts, started_transmit, ht, hq] at hotc ⊢
    exact hotc

theorem Handed.headFollowsStarts {i : Instr} {s u : State} (h : Handed s i u) : HeadFollowsStarts s u := by
  cases h with
  | enqueue => exact headFollowsStarts_enqueueBody _ s
  | csExit => exact .of_eq rfl rfl
  | present => exact .of_eq rfl rfl
  | pollBusy => exact .of_eq (started_emit rfl) rfl
  | csEnter => exact .of_eq (started_emit (s := s) rfl) rfl
  | xferDone => exact .of_eq (started_emit (s := s) rfl) rfl
  | beginWrite => exact .of_eq (by simp [started, armedWrite, acquireBody, startedDesc]) rfl
  | beginRead => exact .of_eq (by simp [started, armedRead, acquireBody, startedDesc]) rfl
  | busTimeout => exact .of_eq (by simp [started, aborted, release, startedDesc]) rfl

/-- Settles O50: ENQUEUE's body writes tail and slot, `Deliver()` the head, each with its `DMA_START`. -/
theorem queueWriters : Obligations.QueueWriters := by
  intro i s t h
  rcases exec_handed h with ⟨rfl, -⟩ | ⟨-, -, -, rfl⟩ | ⟨u, hu, rfl⟩
  · exact ⟨fun _ => ⟨rfl, rfl⟩, fun _ _ _ => rfl, fun _ => rfl⟩
  · exact ⟨fun _ => ⟨rfl, rfl⟩, fun _ _ _ => rfl, fun _ => rfl⟩
  · obtain ⟨htail, hslots⟩ := deliver_tail_slots u
    refine ⟨fun hi => ?_, fun hw k hk => ?_, fun hstarted => ?_⟩
    · rw [htail, hslots, hu.q_eq hi]
      exact ⟨rfl, rfl⟩
    · rw [← hu.slotAt_eq hw hk]
      simp only [slotAt, hslots]
    · exact (hu.headFollowsStarts.trans (headFollowsStarts_deliver u)).head_eq hstarted

/-! ### One step -/

/-- A step does nothing, runs the stimulus of its word, gives the halt loop its turn, or takes a caller's store
(log 1). -/
theorem step_cases {s t : State} (h : step s = .next t) :
    (s.env.inputs = [] ∧ t = s) ∨
    (∃ w rest i, s.env.inputs = .word w :: rest ∧ decode s.env.cfg w = .ok i ∧
      exec i (s.setInputs rest) = .next t) ∨
    (∃ rest, s.env.inputs = .haltEmit :: rest ∧ s.halt = none ∧ t = s.setInputs rest) ∨
    (∃ rest c, s.env.inputs = .haltEmit :: rest ∧ s.halt = some c ∧
      exec (.enqueue (diagDesc s.env.cfg c).ref (diagDesc s.env.cfg c).len) (s.setInputs rest) = .next t) ∨
    (∃ a b rest, s.env.inputs = .store a b :: rest ∧ t = callerStore a b (s.setInputs rest)) := by
  unfold step at h
  split at h
  case h_1 hin => exact .inl ⟨hin, (Host.Outcome.next.inj h).symm⟩
  case h_2 w rest hin =>
    split at h
    · exact .inr (.inl ⟨w, rest, _, hin, by assumption, h⟩)
    · cases h
  case h_3 rest hin =>
    unfold haltEmit at h
    split at h
    case h_1 hh => exact .inr (.inr (.inl ⟨rest, hin, hh, (Host.Outcome.next.inj h).symm⟩))
    case h_2 c hc => exact .inr (.inr (.inr (.inl ⟨rest, c, hin, hc, h⟩)))
  case h_4 a b rest hin => exact .inr (.inr (.inr (.inr ⟨a, b, rest, hin, (Host.Outcome.next.inj h).symm⟩)))

/-! ### The halted state -/

/-- `t` has the bus engine, the mask and the halt of `s`. -/
def SameEngine (s t : State) : Prop :=
  t.halt = s.halt ∧ t.txn = s.txn ∧ t.ien = s.ien ∧ t.bus = s.bus ∧ t.prioMask = s.prioMask

/-- In the halted state only ENQUEUE and XFER_DONE hand anything over, and neither touches the engine (R215). -/
theorem Handed.sameEngine_of_halted {i : Instr} {s u : State} {c : Cause} (h : Handed s i u)
    (hc : s.halt = some c) : SameEngine s u := by
  cases h with
  | enqueue =>
    obtain ⟨htxn, hien, hbus, hmask, hhalt, -⟩ := enqueueBody_keeps _ s
    exact ⟨hhalt, htxn, hien, hbus, hmask⟩
  | xferDone => exact ⟨rfl, rfl, rfl, rfl, rfl⟩
  | _ => exact absurd (hc.symm.trans ‹s.halt = none›) (by simp)

/-- In the halted state `Deliver()` runs no bus handler (R179). -/
theorem sameEngine_deliver_of_halted {u : State} {c : Cause} (hc : u.halt = some c) : SameEngine u (deliver u) := by
  rw [deliver_noBus (.inl (by simp [hc]))]
  split
  · exact ⟨otc_halt u, otc_txn u, otc_ien u, otc_bus u, otc_prioMask u⟩
  · exact ⟨rfl, rfl, rfl, rfl, rfl⟩

theorem SameEngine.trans {s t u : State} (h : SameEngine s t) (h' : SameEngine t u) : SameEngine s u := by
  obtain ⟨h1, h2, h3, h4, h5⟩ := h
  obtain ⟨h1', h2', h3', h4', h5'⟩ := h'
  exact ⟨h1'.trans h1, h2'.trans h2, h3'.trans h3, h4'.trans h4, h5'.trans h5⟩

theorem exec_sameEngine_of_halted {i : Instr} {s t : State} {c : Cause} (hc : s.halt = some c)
    (h : exec i s = .next t) : SameEngine s t := by
  rcases exec_handed h with ⟨rfl, -⟩ | ⟨-, hh, -⟩ | ⟨u, hu, rfl⟩
  · exact ⟨rfl, rfl, rfl, rfl, rfl⟩
  · exact absurd (hc.symm.trans hh) (by simp)
  · have hsu := hu.sameEngine_of_halted hc
    have ⟨hhalt, _⟩ := hsu
    exact hsu.trans (sameEngine_deliver_of_halted (hhalt.trans hc))

/-- Settles O46: no input moves a halted engine. -/
theorem haltIsForEver : Obligations.HaltIsForEver := by
  intro s t c hc h
  have hsame : SameEngine s t := by
    rcases step_cases h with ⟨-, rfl⟩ | ⟨w, rest, i, -, -, hexec⟩ | ⟨rest, -, -, rfl⟩ | ⟨rest, c', -, -, hexec⟩ |
      ⟨a, b, rest, -, rfl⟩
    · exact ⟨rfl, rfl, rfl, rfl, rfl⟩
    · exact exec_sameEngine_of_halted (s := s.setInputs rest) hc hexec
    · exact ⟨rfl, rfl, rfl, rfl, rfl⟩
    · exact exec_sameEngine_of_halted (s := s.setInputs rest) hc hexec
    · exact ⟨rfl, rfl, rfl, rfl, rfl⟩
  obtain ⟨hhalt, hengine⟩ := hsame
  exact ⟨hhalt.trans hc, hengine⟩

/-! ### The invariants, one side at a time -/

/-- The invariants of the bus engine: R44 (i) to (iii), the register clause of R24, and R212. -/
structure EngineInv (s : State) : Prop where
  evtIsBusy    : s.ien.evt = s.txn.busy
  txWindow     : s.ien.tx = true → s.txn.busy = true ∧ s.txn.direction = .write ∧ s.txn.step.toNat ≤ 2
  rxWindow     : s.ien.rx = true → s.txn.busy = true ∧ s.txn.direction = .read ∧ s.txn.step.toNat = 5
  busyStep     : s.txn.busy = true →
                   (s.txn.direction = .write → s.txn.step.toNat ≤ 3) ∧
                   (s.txn.direction = .read → s.txn.step.toNat ≤ 5)
  readRegister : s.txn.busy = true → s.txn.direction = .read →
                   s.txn.register = axisReg s.env.cfg s.txn.currentAxis
  noSequencing : s.halt ≠ some .sequencing

/-- The invariants of the transmit path and of message memory: R44 (iv) and (v), R34, the canonical forms, and the
record of breaches (log 7). -/
structure TransmitInv (s : State) : Prop where
  idleEmpty     : s.halt = none → idle s = true → queueEmpty s = true
  oneTransfer   : ¬(s.dma.active = true ∧ s.dma.tc = true)
  headInRing    : s.q.head < qslots s.env.cfg
  tailInRing    : s.q.tail < qslots s.env.cfg
  slotsWf       : cellsWf noDesc s.q.slots = true
  memoryWf      : Memory.wf s.env.mem = true
  breachPending : ∀ c ∈ s.env.stale, ∃ d, (pending s)[c.message]? = some d ∧ covers c.addr d = true

/-- The invariants are those of the two sides, with no handler left waiting (R194). -/
theorem invariants_iff {s : State} :
    Invariants s ↔
      EngineInv s ∧ TransmitInv s ∧ (s.halt = none → busReq s = false ∧ xferReq s = false) := by
  constructor
  · intro h
    exact ⟨{ h with }, { h with }, h.noneWaiting⟩
  · rintro ⟨he, ht, hquiet⟩
    exact { he, ht with noneWaiting := hquiet }

/-- The engine's invariants read the transaction, the enables, the halt and the parameters only. -/
theorem EngineInv.congr {s t : State} (h : EngineInv s) (htxn : t.txn = s.txn) (hien : t.ien = s.ien)
    (hhalt : t.halt = s.halt) (hcfg : t.env.cfg = s.env.cfg) : EngineInv t := by
  obtain ⟨h1, h2, h3, h4, h5, h6⟩ := h
  constructor <;> simpa only [htxn, hien, hhalt, hcfg]

/-- The transmit path's invariants read the queue, the accelerator, the parameters, message memory and the breaches;
a halt only weakens them. -/
theorem TransmitInv.congr {s t : State} (h : TransmitInv s) (hq : t.q = s.q) (hdma : t.dma = s.dma)
    (hcfg : t.env.cfg = s.env.cfg) (hmem : t.env.mem = s.env.mem) (hstale : t.env.stale = s.env.stale)
    (hhalt : t.halt = none → s.halt = none) : TransmitInv t := by
  obtain ⟨h1, h2, h3, h4, h5, h6, h7⟩ := h
  have hp : pending t = pending s := pending_congr hq hdma hcfg
  refine ⟨fun ht => ?_, ?_, ?_, ?_, ?_, ?_, ?_⟩
  · simpa only [idle, queueEmpty, hq, hdma] using h1 (hhalt ht)
  all_goals simpa only [hq, hdma, hcfg, hmem, hstale, hp]

/-! ### The engine's invariants through the bus handler -/

/-- The sequence a step belongs to (R23). -/
def StepLabel.direction : StepLabel → Direction
  | .w1 | .w2 | .w3 | .w4 => .write
  | .rd1 | .rd2 | .rd3 | .rd4 | .rd5 | .rd6 => .read

/-- The number a step has in its sequence (R23). -/
def StepLabel.number : StepLabel → Nat
  | .w1 | .rd1 => 0
  | .w2 | .rd2 => 1
  | .w3 | .rd3 => 2
  | .w4 | .rd4 => 3
  | .rd5 => 4
  | .rd6 => 5

/-- The pair that selects a step is its own (R23). -/
theorem stepAt_eq_some {dir : Direction} {n : StepNo} {k : StepLabel} (h : stepAt dir n = some k) :
    dir = k.direction ∧ n.toNat = k.number := by
  unfold stepAt at h
  split at h
  case h_11 => cases h
  all_goals
    cases h
    exact ⟨rfl, by assumption⟩

/-- No pair of a busy engine is undefined (R44, R154). -/
theorem EngineInv.stepAt_ne_none {s : State} (h : EngineInv s) (hb : s.txn.busy = true) :
    stepAt s.txn.direction s.txn.step ≠ none := by
  obtain ⟨hwrite, hread⟩ := h.busyStep hb
  have hwriteSteps : ∀ n : StepNo, n.toNat ≤ 3 → stepAt .write n ≠ none := by decide
  have hreadSteps : ∀ n : StepNo, n.toNat ≤ 5 → stepAt .read n ≠ none := by decide
  cases hd : s.txn.direction with
  | write => exact hwriteSteps _ (hwrite hd)
  | read => exact hreadSteps _ (hread hd)

/-- An engine just acquired, at step 0 with the enables of its direction (R121). -/
theorem EngineInv.of_acquired {s t : State} {d : Direction} (h : EngineInv s) (hb : t.txn.busy = true)
    (hd : t.txn.direction = d) (hstep : t.txn.step = 0) (hien : t.ien = ⟨true, decide (d = .write), false⟩)
    (hreg : d = .read → t.txn.register = axisReg t.env.cfg t.txn.currentAxis) (hhalt : t.halt = s.halt) :
    EngineInv t where
  evtIsBusy := by rw [hien, hb]
  txWindow := by simp [hien, hb, hd, hstep]
  rxWindow := by simp [hien]
  busyStep := by simp [hstep]
  readRegister _ hread := hreg (hd.symm.trans hread)
  noSequencing := by rw [hhalt]; exact h.noSequencing

/-- A released engine has no window to keep (R143). -/
theorem EngineInv.of_released {s t : State} (h : EngineInv s) (hb : t.txn.busy = false)
    (hien : t.ien = ⟨false, false, false⟩) (hhalt : t.halt = s.halt) : EngineInv t where
  evtIsBusy := by rw [hien, hb]
  txWindow := by simp [hien]
  rxWindow := by simp [hien]
  busyStep := by simp [hb]
  readRegister := by simp [hb]
  noSequencing := by rw [hhalt]; exact h.noSequencing

/-- A step that only advances the step number stays in the windows of the enables that are on (R44). -/
theorem EngineInv.of_advance {s t : State} {n : StepNo} (h : EngineInv s) (htxn : t.txn = { s.txn with step := n })
    (hien : t.ien = s.ien) (hhalt : t.halt = s.halt) (hcfg : t.env.cfg = s.env.cfg)
    (hold : s.txn.step.toNat ≠ 5) (hwrite : s.txn.direction = .write → n.toNat ≤ 2)
    (hread : s.txn.direction = .read → n.toNat ≤ 5) : EngineInv t := by
  obtain ⟨hevt, htx, hrx, -, hreg, hseq⟩ := h
  constructor <;> simp only [htxn, hien, hhalt, hcfg]
  case evtIsBusy => exact hevt
  case txWindow =>
    intro hon
    obtain ⟨hb, hd, -⟩ := htx hon
    exact ⟨hb, hd, hwrite hd⟩
  case rxWindow =>
    intro hon
    obtain ⟨-, -, hfive⟩ := hrx hon
    exact absurd hfive hold
  case busyStep => exact fun _ => ⟨fun hd => Nat.le_succ_of_le (hwrite hd), hread⟩
  case readRegister => exact hreg
  case noSequencing => exact hseq

/-- The "byte received" source is off in a WRITE, and the "more data" source in a READ (R44). -/
theorem EngineInv.rx_off_tx_off {s : State} (h : EngineInv s) :
    (s.txn.direction = .write → s.ien.rx = false) ∧ (s.txn.direction = .read → s.ien.tx = false) := by
  obtain ⟨-, htx, hrx, -⟩ := h
  constructor <;> intro hd
  · refine Bool.eq_false_iff.2 fun hon => ?_
    obtain ⟨-, hread, -⟩ := hrx hon
    exact absurd (hd.symm.trans hread) (by decide)
  · refine Bool.eq_false_iff.2 fun hon => ?_
    obtain ⟨-, hwrite, -⟩ := htx hon
    exact absurd (hd.symm.trans hwrite) (by decide)

/-- W3 turns the "more data" source off as it leaves the source's window (R146). -/
theorem engineInv_stepW3 {s : State} (f : FlagVec) (h : EngineInv s) (hd : s.txn.direction = .write) :
    EngineInv (stepW3 f s) := by
  refine onFlag_induct h ?_
  obtain ⟨hrx, -⟩ := h.rx_off_tx_off
  exact { evtIsBusy := h.evtIsBusy
          txWindow := by simp
          rxWindow := by simp [hrx hd]
          busyStep := by simp [hd]
          readRegister := h.readRegister
          noSequencing := h.noSequencing }

/-- RD5 turns the "byte received" source on as it enters the source's window (R152). -/
theorem engineInv_stepRd5 {s : State} (f : FlagVec) (h : EngineInv s) (hb : s.txn.busy = true)
    (hd : s.txn.direction = .read) : EngineInv (stepRd5 f s) := by
  refine onFlag_induct h ?_
  obtain ⟨-, htx⟩ := h.rx_off_tx_off
  have harmed : EngineInv (((s.emit .clrAddr).setRx true).setStep 5) :=
    { evtIsBusy := h.evtIsBusy
      txWindow := by simp [htx hd]
      rxWindow := by simp [hb, hd]
      busyStep := by simp [hd]
      readRegister := h.readRegister
      noSequencing := h.noSequencing }
  by_cases hz : s.txn.currentAxis = .z
  · simp only [hz, if_true]
    exact harmed.congr rfl rfl rfl rfl
  · simp only [hz, if_false]
    exact harmed

/-- RD6 releases the engine on the last axis, and before it selects the next axis with its register (R153). -/
theorem engineInv_stepRd6 {s : State} (f : FlagVec) (d : Byte) (h : EngineInv s)
    (hd : s.txn.direction = .read) : EngineInv (stepRd6 f d s) := by
  refine onFlag_induct h ?_
  obtain ⟨-, htx⟩ := h.rx_off_tx_off
  cases hn : nextAxis s.txn.currentAxis with
  | none => exact h.of_released rfl rfl rfl
  | some a =>
    exact { evtIsBusy := h.evtIsBusy
            txWindow := by simp [htx hd]
            rxWindow := by simp
            busyStep := by simp
            readRegister := fun _ _ => rfl
            noSequencing := h.noSequencing }

theorem engineInv_runStep {s : State} {k : StepLabel} (f : FlagVec) (d : Byte) (h : EngineInv s)
    (hb : s.txn.busy = true) (hk : stepAt s.txn.direction s.txn.step = some k) : EngineInv (runStep f d s k) := by
  obtain ⟨hd, hn⟩ := stepAt_eq_some hk
  cases k with
  | w3 => exact engineInv_stepW3 f h hd
  | w4 =>
    dsimp only [runStep, stepW4]
    refine onFlag_induct h ?_
    exact h.of_released rfl rfl rfl
  | rd5 => exact engineInv_stepRd5 f h hb hd
  | rd6 => exact engineInv_stepRd6 f d h hd
  | _ =>
    dsimp only [runStep, stepW1, stepW2, stepRd1, stepRd2, stepRd3, stepRd4]
    refine onFlag_induct h ?_
    exact h.of_advance rfl rfl rfl rfl (by simp [hn, StepLabel.number]) (by simp [hd, StepLabel.direction])
      (by simp [hd, StepLabel.direction])

/-- A bus handler whose request passed the gate keeps the engine's invariants: the pair is a defined one (R44). -/
theorem engineInv_runBusHandler {u : State} (h : EngineInv u) (hreq : busReq u = true) :
    EngineInv (runBusHandler u) := by
  have hb : u.txn.busy = true := by
    rw [← h.evtIsBusy]
    simp only [busReq, gate, Bool.and_eq_true] at hreq
    obtain ⟨⟨-, hevt, -⟩, -⟩ := hreq
    exact hevt
  have hp : EngineInv (u.setPend false) := h.congr rfl rfl rfl rfl
  unfold runBusHandler
  rcases onBusEvent_cases u.bus.flags u.bus.data (u.setPend false) with ⟨k, -, hk, e⟩ | ⟨hbad | hbad, -⟩
  · rw [e]
    exact engineInv_runStep _ _ hp hb hk
  · exact absurd (hb.symm.trans hbad) (by simp)
  · exact absurd hbad (hp.stepAt_ne_none hb)

/-! ### The transmit path's invariants through its operations -/

theorem transmitInv_runBusHandler {u : State} (h : TransmitInv u) (hh : u.halt = none) :
    TransmitInv (runBusHandler u) :=
  h.congr (onBusEvent_q _ _ _) (onBusEvent_dma _ _ _) (onBusEvent_env_cfg _ _ _) (onBusEvent_env_mem _ _ _)
    (onBusEvent_env_stale _ _ _) fun _ => hh

/-- The completion handler keeps the pending messages and leaves the accelerator busy or the queue empty (R175,
R44). -/
theorem transmitInv_onTransferComplete {s : State} (h : TransmitInv s) (htc : s.dma.tc = true) :
    TransmitInv (onTransferComplete s) := by
  have ha : s.dma.active = false := by simpa [htc] using h.oneTransfer
  have hbreach := h.breachPending
  rw [← pending_otc h.headInRing h.tailInRing, otc_eq] at hbreach
  rw [otc_eq]
  cases hs : startsNext s with
  | true =>
    simp only [hs, if_true] at hbreach ⊢
    exact { idleEmpty := fun _ hidle => by simp [idle] at hidle
            oneTransfer := by simp [acked]
            headInRing := ringNext_lt _ _
            tailInRing := h.tailInRing
            slotsWf := h.slotsWf
            memoryWf := h.memoryWf
            breachPending := hbreach }
  | false =>
    simp only [hs, Bool.false_eq_true, if_false] at hbreach ⊢
    have hempty : queueEmpty s = true := by simpa [startsNext, ha] using hs
    exact { idleEmpty := fun _ _ => hempty
            oneTransfer := by simp [acked]
            headInRing := h.headInRing
            tailInRing := h.tailInRing
            slotsWf := h.slotsWf
            memoryWf := h.memoryWf
            breachPending := hbreach }

/-- ENQUEUE's body renumbers no pending message, and starts one if it finds the accelerator idle (R173, R44). -/
theorem transmitInv_enqueueBody {s : State} (r : Ref) (l : Len) (h : TransmitInv s) :
    TransmitInv (enqueueBody ⟨r, l⟩ s) := by
  have hbreach : ∀ c ∈ s.env.stale,
      ∃ d, (pending (enqueueBody ⟨r, l⟩ s))[c.message]? = some d ∧ covers c.addr d = true := by
    intro c hc
    obtain ⟨d, hd, hcov⟩ := h.breachPending c hc
    refine ⟨d, ?_, hcov⟩
    rw [pending_enqueueBody r l h.headInRing h.tailInRing h.slotsWf]
    obtain ⟨hlt, -⟩ := List.getElem?_eq_some_iff.1 hd
    rwa [List.getElem?_append_left hlt]
  rcases enqueueBody_cases ⟨r, l⟩ s with ⟨-, e⟩ | ⟨-, hi, e⟩ | ⟨-, hi, e⟩ <;> rw [e] at hbreach ⊢
  · exact h
  · obtain ⟨-, htc⟩ : s.dma.active = false ∧ s.dma.tc = false := by simpa [idle] using hi
    exact { idleEmpty := fun _ hidle => by simp [idle] at hidle
            oneTransfer := by simp [htc]
            headInRing := ringNext_lt _ _
            tailInRing := ringNext_lt _ _
            slotsWf := cellPut_wf _ _ h.slotsWf
            memoryWf := h.memoryWf
            breachPending := hbreach }
  · exact { idleEmpty := fun _ hidle => absurd (hi.symm.trans hidle) Bool.false_ne_true
            oneTransfer := h.oneTransfer
            headInRing := h.headInRing
            tailInRing := ringNext_lt _ _
            slotsWf := cellPut_wf _ _ h.slotsWf
            memoryWf := h.memoryWf
            breachPending := hbreach }

/-- The end of a transfer takes message 0 off the pending ones and its breaches off the record (R174, R76). -/
theorem transmitInv_completed {s : State} (h : TransmitInv s) (ha : s.dma.active = true) :
    TransmitInv (completed s) where
  idleEmpty _ hidle := by simp [idle, completed] at hidle
  oneTransfer := by simp [completed]
  headInRing := h.headInRing
  tailInRing := h.tailInRing
  slotsWf := h.slotsWf
  memoryWf := h.memoryWf
  breachPending c hc := by
    obtain ⟨d, hd, hcov⟩ := h.breachPending _ (mem_dropStale_stale.1 hc)
    rw [pending_completed ha, List.getElem?_cons_succ] at hd
    exact ⟨d, hd, hcov⟩

/-- A caller's store keeps memory canonical and records breaches of pending messages only (R61, R76). -/
theorem transmitInv_callerStore {s : State} (a : Ref) (b : Byte) (h : TransmitInv s) :
    TransmitInv (callerStore a b s) where
  idleEmpty := h.idleEmpty
  oneTransfer := h.oneTransfer
  headInRing := h.headInRing
  tailInRing := h.tailInRing
  slotsWf := h.slotsWf
  memoryWf := memStore_wf a b h.memoryWf
  breachPending c hc := by
    rcases mem_callerStore_stale.1 hc with hold | ⟨-, haddr, -, d, hd, hcov⟩
    · exact h.breachPending c hold
    · exact ⟨d, hd, by rwa [haddr]⟩

/-! ### The invariants through a stimulus and a step -/

/-- A begin while busy halts with a cause other than SEQUENCING (R127, R212). -/
theorem engineInv_raisePrecondition {s : State} (h : EngineInv s) : EngineInv (raiseFatal .precondition s) :=
  { h with noSequencing := by simp [raiseFatal] }

theorem Handed.engineInv {i : Instr} {s u : State} (hu : Handed s i u) (h : EngineInv s) : EngineInv u := by
  cases hu with
  | beginWrite => exact h.of_acquired (d := .write) rfl rfl rfl rfl nofun rfl
  | beginRead => exact h.of_acquired (d := .read) rfl rfl rfl rfl (fun _ => rfl) rfl
  | enqueue =>
    obtain ⟨htxn, hien, -, -, hhalt, hcfg, -⟩ := enqueueBody_keeps _ s
    exact h.congr htxn hien hhalt hcfg
  | busTimeout => exact h.of_released rfl rfl rfl
  | _ => exact h.congr rfl rfl rfl rfl

theorem Handed.transmitInv {i : Instr} {s u : State} (hu : Handed s i u) (h : TransmitInv s) : TransmitInv u := by
  cases hu with
  | enqueue => exact transmitInv_enqueueBody _ _ h
  | xferDone ha => exact transmitInv_completed h ha
  | _ => exact h.congr rfl rfl rfl rfl rfl id

/-- A running block has no request left where no handler is chosen (R194). -/
theorem no_request_of_stop {s : State} (h : choose s = .stop) (hh : s.halt = none) :
    busReq s = false ∧ xferReq s = false := by
  cases hb : busReq s with
  | false => cases hx : xferReq s <;> simp_all [choose]
  | true =>
    simp only [choose, hh, hb, Option.isSome_none, Bool.false_eq_true, if_false, if_true] at h
    split at h
    · split at h
      · cases h
      · split at h <;> cases h
    · cases h

/-- `Deliver()` establishes all invariants from those of the two sides: it leaves no handler waiting (R194). -/
theorem invariants_deliver {u : State} (he : EngineInv u) (ht : TransmitInv u) : Invariants (deliver u) := by
  obtain ⟨he', ht'⟩ : EngineInv (deliver u) ∧ TransmitInv (deliver u) := by
    refine deliver_induct (P := fun v => EngineInv v ∧ TransmitInv v) ⟨he, ht⟩ ?_ ?_ ?_
    · rintro v ⟨hve, hvt⟩
      exact ⟨hve.congr rfl rfl rfl rfl, hvt.congr rfl rfl rfl rfl rfl id⟩
    · rintro v hh hreq ⟨hve, hvt⟩
      exact ⟨engineInv_runBusHandler hve hreq, transmitInv_runBusHandler hvt hh⟩
    · rintro v hw ⟨hve, hvt⟩
      obtain ⟨htc, -⟩ := Bool.and_eq_true_iff.1 hw
      exact ⟨hve.congr (otc_txn v) (otc_ien v) (otc_halt v) (otc_env_cfg v),
        transmitInv_onTransferComplete hvt htc⟩
  exact invariants_iff.2 ⟨he', ht', no_request_of_stop (choose_deliver u)⟩

/-- A stimulus keeps the invariants (R44). -/
theorem exec_keeps_invariants {i : Instr} {s t : State} (h : Invariants s) (hexec : exec i s = .next t) :
    Invariants t := by
  obtain ⟨he, ht, -⟩ := invariants_iff.1 h
  rcases exec_handed hexec with ⟨rfl, -⟩ | ⟨-, hh, -, rfl⟩ | ⟨u, hu, rfl⟩
  · exact h
  · exact invariants_iff.2 ⟨engineInv_raisePrecondition he, ht.congr rfl rfl rfl rfl rfl fun _ => hh, nofun⟩
  · exact invariants_deliver (hu.engineInv he) (hu.transmitInv ht)

theorem Invariants.setInputs {s : State} (h : Invariants s) (rest : List Input) : Invariants (s.setInputs rest) := by
  obtain ⟨he, ht, hquiet⟩ := invariants_iff.1 h
  exact invariants_iff.2 ⟨he.congr rfl rfl rfl rfl, ht.congr rfl rfl rfl rfl rfl id, hquiet⟩

/-- Settles O55: a stimulus keeps the invariants, and so do the other inputs. -/
theorem stepKeepsTheInvariants : Obligations.StepKeepsTheInvariants := by
  intro s t h hstep
  rcases step_cases hstep with ⟨-, rfl⟩ | ⟨w, rest, i, -, -, hexec⟩ | ⟨rest, -, -, rfl⟩ | ⟨rest, c, -, -, hexec⟩ |
    ⟨a, b, rest, -, rfl⟩
  · exact h
  · exact exec_keeps_invariants (h.setInputs rest) hexec
  · exact h.setInputs rest
  · exact exec_keeps_invariants (h.setInputs rest) hexec
  · obtain ⟨he, ht, hquiet⟩ := invariants_iff.1 (h.setInputs rest)
    exact invariants_iff.2 ⟨he.congr rfl rfl rfl rfl, transmitInv_callerStore a b ht, hquiet⟩

/-! ### Reset -/

/-- Settles O53: `State.reset` is written with these values. -/
theorem resetState : Obligations.ResetState := by
  unfold Obligations.ResetState
  decide

/-- Settles O54: at reset nothing is busy, queued, in flight or recorded. -/
theorem invariantsHoldAtReset : Obligations.InvariantsHoldAtReset := by
  refine ⟨⟨?_, ?_, ?_, ?_, ?_, ?_, ?_, ?_, ?_, ?_, ?_, ?_, ?_, ?_⟩, ?_⟩ <;> decide

end Sys2Proof.Machine

/-! PROOFS. Message memory and the callers' contract (20_memory.md): what each input of a step does, that no stimulus
writes message memory, that a caller's store writes one byte, and which bytes a transfer sends. -/

namespace Sys2Proof.Machine

/-! ### The inputs of a step -/

theorem step_word {s : State} {w : Word} {rest : List Input} {i : Instr} (hin : s.env.inputs = .word w :: rest)
    (hdec : decode s.env.cfg w = .ok i) : step s = exec i (s.setInputs rest) := by
  simp only [step, hin, hdec]

theorem step_invalid_word {s : State} {w : Word} {rest : List Input} {e : DecodeError}
    (hin : s.env.inputs = .word w :: rest) (hdec : decode s.env.cfg w = .error e) :
    step s = .refused (.invalidStimulus e) := by
  simp only [step, hin, hdec]

theorem step_no_input {s : State} (hin : s.env.inputs = []) : step s = .next s := by
  simp only [step, hin]

theorem step_store {s : State} {a : Ref} {b : Byte} {rest : List Input} (hin : s.env.inputs = .store a b :: rest) :
    step s = .next (callerStore a b (s.setInputs rest)) := by
  simp only [step, hin]

/-- Settles O8, one clause for each form of the next input. -/
theorem stepRunsTheNextStimulus : Obligations.StepRunsTheNextStimulus :=
  ⟨fun _ _ _ _ => step_word, fun _ _ _ _ => step_invalid_word, fun _ => step_no_input⟩

/-! ### Who writes message memory -/

/-- No stimulus writes message memory or a parameter before its `Deliver()`, and XFER_DONE alone writes the breach
records (R62). -/
theorem Handed.memory {i : Instr} {s u : State} (h : Handed s i u) :
    u.env.mem = s.env.mem ∧ u.env.cfg = s.env.cfg ∧ (i ≠ .xferDone → u.env.stale = s.env.stale) := by
  cases h with
  | enqueue =>
    obtain ⟨-, -, -, -, -, hcfg, -, hmem, hstale⟩ := enqueueBody_keeps _ s
    exact ⟨hmem, hcfg, fun _ => hstale⟩
  | xferDone => exact ⟨rfl, rfl, fun hi => absurd rfl hi⟩
  | _ => exact ⟨rfl, rfl, fun _ => rfl⟩

/-- Settles O51: nothing handed to `Deliver()` has another memory, and `Deliver()` keeps the surroundings. -/
theorem noStimulusWritesMessageMemory : Obligations.NoStimulusWritesMessageMemory := by
  intro i s t h
  rcases exec_handed h with ⟨rfl, -⟩ | ⟨-, -, -, rfl⟩ | ⟨u, hu, rfl⟩
  · exact ⟨fun _ => rfl, rfl, fun _ => rfl⟩
  · exact ⟨fun _ => rfl, rfl, fun _ => rfl⟩
  · obtain ⟨hmem, hcfg, hstale⟩ := hu.memory
    obtain ⟨⟨hcfg', -, hmem', hstale'⟩, -⟩ := deliver_keeps u
    exact ⟨fun a => by rw [hmem', hmem], hcfg'.trans hcfg, fun hi => hstale'.trans (hstale hi)⟩

/-- Settles O10: the step is `callerStore`, whose memory is the old one with one byte written. -/
theorem callerStoresOneByte : Obligations.CallerStoresOneByte := by
  intro s rest a b hin hwf
  exact ⟨_, step_store hin, memByte_memStore_same a b hwf, fun a' ha => memByte_memStore_other b hwf ha,
    memStore_wf a b hwf, rfl, rfl, rfl, rfl, rfl, rfl, rfl, rfl, fun c => mem_callerStore_stale⟩

/-! ### The bytes a transfer sends -/

theorem sentByte_of_no_staleBytes {s : State} {a : Ref} (n : Nat) (h : staleBytes s a = []) :
    sentByte s a n = memByte s.env.mem a := by
  simp only [sentByte, h]

/-- A byte sent is the byte in memory or one remembered for the message in flight, for every free value (R76, U4). -/
theorem sentByte_current_or_old (s : State) (a : Ref) (n : Nat) :
    sentByte s a n = memByte s.env.mem a ∨ sentByte s a n ∈ staleBytes s a := by
  cases hold : staleBytes s a with
  | nil => exact .inl (sentByte_of_no_staleBytes n hold)
  | cons old olds =>
    have hlt : Config.freeStaleByte n % (olds.length + 2) < (memByte s.env.mem a :: old :: olds).length :=
      Nat.mod_lt _ (Nat.succ_pos _)
    simp only [sentByte, hold, List.getD_eq_getElem?_getD, List.getElem?_eq_getElem hlt, Option.getD_some]
    exact List.mem_cons.1 (List.getElem_mem hlt)

/-- With no breach of the message in flight the bytes sent are `MemRead(dma.src, dma.len)` (R174). -/
theorem sentBytes_eq_memRead {s : State}
    (h : ∀ c ∈ s.env.stale, c.message = 0 → covers c.addr ⟨s.dma.src, s.dma.len⟩ = false) :
    sentBytes s = memRead s.env.mem s.dma.src s.dma.len.toNat := by
  refine List.map_congr_left fun k hk => sentByte_of_no_staleBytes _ ?_
  refine List.eq_nil_iff_forall_not_mem.2 fun old hold => ?_
  have hcov := covers_offset (d := ⟨s.dma.src, s.dma.len⟩) (List.mem_range.1 hk)
  exact absurd (hcov.symm.trans (h _ (mem_staleBytes.1 hold) rfl)) (by decide)

theorem getElem?_sentBytes {s : State} {k : Nat} (hk : k < s.dma.len.toNat) :
    (sentBytes s)[k]? = some (sentByte s (s.dma.src + BitVec.ofNat 32 k) (s.env.freeCount + k)) := by
  simp [sentBytes, hk]

/-! ### The message an ENQUEUE adds -/

/-- `Deliver()` keeps the pending messages: a handler starts one or touches none (R172, R196). -/
theorem pending_deliver {u : State} (h : TransmitInv u) : pending (deliver u) = pending u := by
  obtain ⟨-, hpending⟩ : TransmitInv (deliver u) ∧ pending (deliver u) = pending u := by
    refine deliver_induct (P := fun v => TransmitInv v ∧ pending v = pending u) ⟨h, rfl⟩ ?_ ?_ ?_
    · rintro v ⟨hv, hp⟩
      exact ⟨hv.congr rfl rfl rfl rfl rfl id, hp⟩
    · rintro v hh - ⟨hv, hp⟩
      exact ⟨transmitInv_runBusHandler hv hh, (pending_runBusHandler v).trans hp⟩
    · rintro v hw ⟨hv, hp⟩
      obtain ⟨htc, -⟩ := Bool.and_eq_true_iff.1 hw
      exact ⟨transmitInv_onTransferComplete hv htc, (pending_otc hv.headInRing hv.tailInRing).trans hp⟩
  exact hpending

theorem exec_enqueue_next {r : Ref} {l : Len} {s t : State} (h : exec (.enqueue r l) s = .next t) :
    t = deliver (enqueueBody ⟨r, l⟩ s) := by
  by_cases hl : l = 0
  · simp [exec, execEnqueue, hl] at h
  · simp only [exec, execEnqueue, hl, if_false, enqueue, enqueueSection_eq] at h
    exact (Host.Outcome.next.inj h).symm

/-- An ENQUEUE that is not dropped adds its message as the last pending one (R173). -/
theorem pending_exec_enqueue {r : Ref} {l : Len} {s t : State} (hinv : Invariants s) (hfull : queueFull s = false)
    (h : exec (.enqueue r l) s = .next t) : pending t = pending s ++ [⟨r, l⟩] := by
  obtain ⟨-, htr, -⟩ := invariants_iff.1 hinv
  calc pending t = pending (deliver (enqueueBody ⟨r, l⟩ s)) := by rw [exec_enqueue_next h]
    _ = pending (enqueueBody ⟨r, l⟩ s) := pending_deliver (transmitInv_enqueueBody r l htr)
    _ = pending s ++ accepted s (.enqueue r l) :=
      pending_enqueueBody r l htr.headInRing htr.tailInRing htr.slotsWf
    _ = pending s ++ [⟨r, l⟩] := by simp [accepted, hfull]

/-- Settles O39: a byte of the message in flight has the old bytes of message 0, and a breach is of a message pending
before the ENQUEUE. -/
theorem sentBytesAreTheMessage : Obligations.SentBytesAreTheMessage := by
  refine ⟨fun s => ⟨sentBytes_eq_memRead, fun k hk => ⟨_, getElem?_sentBytes hk, ?_⟩⟩, ?_⟩
  · rw [← mem_staleBytes]
    exact sentByte_current_or_old _ _ _
  · intro r l s t hinv hfull h
    have hpending := pending_exec_enqueue hinv hfull h
    obtain ⟨-, -, hstale⟩ := noStimulusWritesMessageMemory _ s t h
    refine ⟨by simp [hpending], fun c hc => ?_⟩
    rw [hstale (by simp)] at hc
    obtain ⟨d, hd, -⟩ := hinv.breachPending c hc
    obtain ⟨hlt, -⟩ := List.getElem?_eq_some_iff.1 hd
    simpa [hpending] using hlt

end Sys2Proof.Machine

/-! PROOFS. The encoding (30_encoding.md): decode and encode, the words that spell a stimulus, and what a step
refuses. They rest on `decode_encode` and `decode_eq_ok_iff`. -/

namespace Sys2Proof

open Machine

/-! ### Spellings -/

/-- A spelling has the word of what it stands for (R104, R107). -/
@[simp] theorem encode_expand (cfg : Config) (i : Instr) : encode cfg (i.expand cfg) = encode cfg i := by
  cases i <;> rfl

/-- A spelling acts as what it stands for (R104, R107). -/
theorem exec_expand (i : Instr) (s : State) : exec (i.expand s.env.cfg) s = exec i s := by
  cases i <;> rfl

/-- Settles O7: the word and the meaning of a spelling are those of its expansion. -/
theorem spellingsActAsTheirExpansion : Obligations.SpellingsActAsTheirExpansion :=
  fun i s => ⟨(encode_expand _ i).symm, (exec_expand i s).symm⟩

/-! ### Decode and encode -/

open Laws.RoundTrip in
/-- The word of a stimulus that exists decodes to what the stimulus stands for (R107, R108). -/
theorem decode_encode {cfg : Config} {i : Instr} (h : i.wellFormed cfg = true) :
    decode cfg (encode cfg i) = .ok (i.expand cfg) := by
  cases i with
  | beginWrite r v => exact beginWrite r v cfg h
  | beginRead | tick => exact beginRead cfg h
  | pollBusy => exact pollBusy cfg h
  | enqueue r l => exact enqueue r l cfg h
  | csEnter | csBegin => exact decode_csEnterWord cfg _
  | csExit l => exact csExit l cfg h
  | xferDone => exact xferDone cfg h
  | busTimeout => exact busTimeout cfg h
  | busEvent | busEventW1 | busEventW2 | busEventW3 | busEventW4 | busEventRd1 | busEventRd2 | busEventRd3
  | busEventRd4 | busEventRd5 | busEventRd6 | busEventUndefined | evSb | evAddr | evBtf | evTxe | evRxne =>
    exact decode_busEventWord cfg _ _

/-- The decoder's answers are the existing stimuli that stand for themselves, each from its own word (R91, R108). -/
theorem decode_eq_ok_iff {cfg : Config} {w : Word} {i : Instr} :
    decode cfg w = .ok i ↔ encode cfg i = w ∧ i.wellFormed cfg = true ∧ i.expand cfg = i := by
  constructor
  · intro h
    rcases decode_cases h with ⟨r, v, rfl, rfl⟩ | ⟨rfl, rfl⟩ | ⟨rfl, rfl⟩ | ⟨r, l, rfl, rfl⟩ | ⟨l, rfl, rfl⟩ |
      ⟨l, rfl, rfl⟩ | ⟨f, d, rfl, rfl⟩ | ⟨rfl, rfl⟩ | ⟨htimeout, rfl, rfl⟩
    any_goals exact ⟨rfl, rfl, rfl⟩
    exact ⟨rfl, htimeout, rfl⟩
  · rintro ⟨rfl, hexists, hself⟩
    rw [decode_encode hexists, hself]

/-- Settles O2, one direction of `decode_eq_ok_iff`. -/
theorem decodedWordsAreTheStimulusWord : Obligations.DecodedWordsAreTheStimulusWord :=
  fun _ _ _ => decode_eq_ok_iff.1

/-- The same parameters with the row BUS_TIMEOUT, so that every stimulus exists (R101). -/
def Config.withTimeout (cfg : Config) : Config := { cfg with hasTimeout := true }

theorem encode_withTimeout (cfg : Config) (i : Instr) : encode cfg.withTimeout i = encode cfg i := by
  cases i <;> rfl

theorem expand_withTimeout (cfg : Config) (i : Instr) : i.expand cfg.withTimeout = i.expand cfg := by
  cases i <;> rfl

theorem wellFormed_withTimeout (cfg : Config) (i : Instr) : i.wellFormed cfg.withTimeout = true := by
  cases i <;> rfl

/-- A word determines what its stimulus stands for, whether or not the stimulus exists: only BUS_TIMEOUT may not, and
no word depends on `HAS_TIMEOUT` (R108). -/
theorem expand_eq_of_encode_eq {cfg : Config} {i j : Instr} (h : encode cfg i = encode cfg j) :
    i.expand cfg = j.expand cfg := by
  have hdecode (k : Instr) : decode cfg.withTimeout (encode cfg k) = .ok (k.expand cfg) := by
    rw [← encode_withTimeout, ← expand_withTimeout]
    exact decode_encode (wellFormed_withTimeout cfg k)
  exact Except.ok.inj ((hdecode i).symm.trans (h ▸ hdecode j))

/-- Settles O1: the byte stream of a word decodes as the word does. -/
theorem encodedStimuliDecodeBack : Obligations.EncodedStimuliDecodeBack := by
  refine ⟨fun _ _ => decode_encode, fun _ _ _ => expand_eq_of_encode_eq, fun _ => rfl, fun cfg i rest h => ?_⟩
  rw [encodeBytes, decodeBytes_bytesOfWord, decode_encode h]

/-! ### The operand fields -/

theorem toNat_aField (w : Word) : (aField w).toNat = w.toNat / 2 ^ 48 % 2 ^ 8 := by
  simp [aField, Nat.shiftRight_eq_div_pow]

theorem toNat_bField (w : Word) : (bField w).toNat = w.toNat / 2 ^ 32 % 2 ^ 16 := by
  simp [bField, Nat.shiftRight_eq_div_pow]

theorem toNat_bLow (w : Word) : (bLow w).toNat = w.toNat / 2 ^ 32 % 2 ^ 8 := by
  simp [bLow, Nat.shiftRight_eq_div_pow]

theorem toNat_cField (w : Word) : (cField w).toNat = w.toNat % 2 ^ 32 := by
  simp [cField]

/-- Settles O4: the word is that of its stimulus, and the fields of a packed word are what it was packed from. -/
theorem operandsAreTheirFields : Obligations.OperandsAreTheirFields := by
  intro cfg w
  refine ⟨fun r v h => ?_, fun f d h => ?_, fun r l h => ?_, fun l h => ?_, fun l h => ?_⟩ <;>
    obtain ⟨rfl, -, -⟩ := decode_eq_ok_iff.1 h <;>
    simp only [encode, busEventWord, csEnterWord, ← toNat_aField, ← toNat_bField, ← toNat_bLow, ← toNat_cField,
      aField_packWord, bField_packWord, bLow_packWord, lowByte_pair, cField_packWord, and_self]

/-! ### The opcode table's masks and matches -/

/-- Two words are equal when they agree in `op`, `a`, the two bytes of `b`, and `c` (R90). -/
theorem word_eq_iff {w v : Word} :
    w = v ↔ opField w = opField v ∧ aField w = aField v ∧ bHigh w = bHigh v ∧ bLow w = bLow v ∧
      cField w = cField v := by
  refine ⟨by rintro rfl; simp, fun ⟨hop, ha, hbHigh, hbLow, hc⟩ => ?_⟩
  rw [← packWord_fields w, ← packWord_fields v, bField_bytes, bField_bytes v, hop, ha, hbHigh, hbLow, hc]

@[simp] theorem opField_and (w m : Word) : opField (w &&& m) = opField w &&& opField m := BitVec.extractLsb'_and ..
@[simp] theorem aField_and (w m : Word) : aField (w &&& m) = aField w &&& aField m := BitVec.extractLsb'_and ..
@[simp] theorem bHigh_and (w m : Word) : bHigh (w &&& m) = bHigh w &&& bHigh m := BitVec.extractLsb'_and ..
@[simp] theorem bLow_and (w m : Word) : bLow (w &&& m) = bLow w &&& bLow m := BitVec.extractLsb'_and ..
@[simp] theorem cField_and (w m : Word) : cField (w &&& m) = cField w &&& cField m := BitVec.extractLsb'_and ..

/-- A field whose mask bits are all one is compared as it stands. -/
@[simp] theorem byte_and_ones (x : Byte) : x &&& 0xFF#8 = x := BitVec.and_allOnes
@[simp] theorem ref_and_ones (x : Ref) : x &&& 0xFFFFFFFF#32 = x := BitVec.and_allOnes

/-- The mask that leaves no bit free: BEGIN_READ, POLL_BUSY, XFER_DONE and BUS_TIMEOUT (R94, R95, R100, R101). -/
theorem matches_noOperand_iff {w v : Word} : w &&& 0xFFFFFFFFFFFFFFFF = v ↔ w = v := by
  rw [show w &&& 0xFFFFFFFFFFFFFFFF = w from BitVec.and_allOnes]

/-- The mask that leaves `a` and `b[7:0]` free: BEGIN_WRITE and BUS_EVENT (R93, R99). -/
theorem matches_twoBytes_iff {w : Word} {op : Byte} :
    w &&& packWord 0xFF 0 ((0xFF : Byte) ++ (0 : Byte)) 0xFFFFFFFF = packWord op 0 0 0 ↔
      ∃ x y : Byte, w = packWord op x ((0 : Byte) ++ y) 0 := by
  simp [word_eq_iff]

/-- The mask that leaves `a` free: CS_ENTER and CS_EXIT (R97, R98). -/
theorem matches_level_iff {w : Word} {op : Byte} :
    w &&& packWord 0xFF 0 ((0xFF : Byte) ++ (0xFF : Byte)) 0xFFFFFFFF = packWord op 0 0 0 ↔
      ∃ l, w = packWord op l 0 0 := by
  simp [word_eq_iff]

/-- The mask that leaves `b` and `c` free: ENQUEUE (R96). -/
theorem matches_message_iff {w : Word} {op : Byte} :
    w &&& packWord 0xFF 0xFF 0 0 = packWord op 0 0 0 ↔ ∃ r l, w = packWord op 0 l r := by
  have hfields : (opField w = op ∧ aField w = 0) ↔ ∃ r l, w = packWord op 0 l r := by
    refine ⟨fun ⟨hop, ha⟩ => ⟨cField w, bField w, ?_⟩, by rintro ⟨r, l, rfl⟩; simp⟩
    rw [← hop, ← ha, packWord_fields]
  rw [← hfields]
  simp [word_eq_iff]

/-- The words that spell a stimulus, by stimulus (R92 to R101). -/
theorem decodes_iff {cfg : Config} {w : Word} :
    (∃ i, decode cfg w = .ok i) ↔
      (∃ r v : Byte, w = packWord 0x01 r ((0 : Byte) ++ v) 0) ∨ w = packWord 0x02 0 0 0 ∨ w = packWord 0x03 0 0 0 ∨
      (∃ r l, w = packWord 0x10 0 l r) ∨ (∃ l, w = packWord 0x20 l 0 0) ∨ (∃ l, w = packWord 0x21 l 0 0) ∨
      (∃ f d : Byte, w = packWord 0x80 f ((0 : Byte) ++ d) 0) ∨ w = packWord 0x81 0 0 0 ∨
      (cfg.hasTimeout = true ∧ w = packWord 0x82 0 0 0) := by
  constructor
  · rintro ⟨i, h⟩
    exact (decode_cases h).imp (fun ⟨r, v, hw, _⟩ => ⟨r, v, hw⟩) <| Or.imp And.left <| Or.imp And.left <|
      Or.imp (fun ⟨r, l, hw, _⟩ => ⟨r, l, hw⟩) <| Or.imp (fun ⟨l, hw, _⟩ => ⟨l, hw⟩) <|
      Or.imp (fun ⟨l, hw, _⟩ => ⟨l, hw⟩) <| Or.imp (fun ⟨f, d, hw, _⟩ => ⟨f, d, hw⟩) <| Or.imp And.left
      fun ⟨ht, hw, _⟩ => ⟨ht, hw⟩
  · rintro (⟨r, v, rfl⟩ | rfl | rfl | ⟨r, l, rfl⟩ | ⟨l, rfl⟩ | ⟨l, rfl⟩ | ⟨f, d, rfl⟩ | rfl | ⟨htimeout, rfl⟩)
    · exact ⟨_, decode_encode (i := .beginWrite r v) rfl⟩
    · exact ⟨_, decode_encode (i := .beginRead) rfl⟩
    · exact ⟨_, decode_encode (i := .pollBusy) rfl⟩
    · exact ⟨_, decode_encode (i := .enqueue r l) rfl⟩
    · exact ⟨_, decode_encode (i := .csEnter l) rfl⟩
    · exact ⟨_, decode_encode (i := .csExit l) rfl⟩
    · exact ⟨_, decode_encode (i := .busEvent f d) rfl⟩
    · exact ⟨_, decode_encode (i := .xferDone) rfl⟩
    · exact ⟨_, decode_encode (i := .busTimeout) htimeout⟩

/-- Settles O3: a word matches a row when it is the row's stimulus with some operands. -/
theorem wordsThatSpellStimuli : Obligations.WordsThatSpellStimuli := fun _ _ =>
  decodes_iff.trans <|
    or_congr matches_twoBytes_iff.symm <| or_congr matches_noOperand_iff.symm <|
    or_congr matches_noOperand_iff.symm <| or_congr matches_message_iff.symm <| or_congr matches_level_iff.symm <|
    or_congr matches_level_iff.symm <| or_congr matches_twoBytes_iff.symm <| or_congr matches_noOperand_iff.symm <|
    and_congr_right' matches_noOperand_iff.symm

end Sys2Proof

namespace Sys2Proof.Machine

/-! ### What a step refuses -/

/-- A stimulus that exists is refused only as an ENQUEUE of an empty message (R173, R268). -/
theorem exec_next_or_empty {i : Instr} {s : State} (h : i.wellFormed s.env.cfg = true) :
    (∃ t, exec i s = .next t) ∨ ∃ r, i = .enqueue r 0 ∧ exec i s = .refused .zeroLengthMessage := by
  cases i with
  | enqueue r l =>
    by_cases hl : l = 0
    · exact .inr ⟨r, by rw [hl], if_pos hl⟩
    · exact .inl ⟨_, if_neg hl⟩
  | busTimeout => exact .inl ⟨_, if_pos h⟩
  | _ => exact .inl ⟨_, rfl⟩

/-- The halt loop's turn has a next state unless the diagnostic message of the cause is empty (R173, R179). -/
theorem haltEmit_next_or_empty (s : State) :
    (∃ t, haltEmit s = .next t) ∨
      ∃ c, s.halt = some c ∧ (diagDesc s.env.cfg c).len = 0 ∧ haltEmit s = .refused .zeroLengthMessage := by
  unfold haltEmit
  cases s.halt with
  | none => exact .inl ⟨s, rfl⟩
  | some c =>
    by_cases hl : (diagDesc s.env.cfg c).len = 0
    · exact .inr ⟨c, rfl, hl, if_pos hl⟩
    · exact .inl ⟨_, if_neg hl⟩

theorem step_haltEmit {s : State} {rest : List Input} (hin : s.env.inputs = .haltEmit :: rest) :
    step s = haltEmit (s.setInputs rest) := by
  simp only [step, hin]

/-- Settles O11, by the form of the next input: a word that decodes is a stimulus that exists. -/
theorem stepRefusesOnlyInvalidWordsAndEmptyMessages : Obligations.StepRefusesOnlyInvalidWordsAndEmptyMessages := by
  intro s
  cases hin : s.env.inputs with
  | nil => exact .inl ⟨s, step_no_input hin⟩
  | cons input rest =>
    cases input with
    | store a b => exact .inl ⟨_, step_store hin⟩
    | haltEmit =>
      rw [step_haltEmit hin]
      rcases haltEmit_next_or_empty (s.setInputs rest) with hnext | ⟨c, hhalt, hempty, hrefused⟩
      · exact .inl hnext
      · exact .inr (.inr (.inr ⟨rest, c, rfl, hhalt, hempty, hrefused⟩))
    | word w =>
      cases hdec : decode s.env.cfg w with
      | error e => exact .inr (.inl ⟨w, rest, e, rfl, hdec, step_invalid_word hin hdec⟩)
      | ok i =>
        obtain ⟨-, hexists, -⟩ := decode_eq_ok_iff.1 hdec
        rw [step_word hin hdec]
        rcases exec_next_or_empty (s := s.setInputs rest) hexists with hnext | ⟨r, rfl, hrefused⟩
        · exact .inl hnext
        · exact .inr (.inr (.inl ⟨w, rest, r, rfl, hdec, hrefused⟩))

end Sys2Proof.Machine

/-! PROOFS. The textual form (30_encoding.md, section 6): numbers, tokens, lines. -/

namespace Sys2Proof.Machine

/-! ### Numbers -/

theorem digitVal_hexDigit {n : Nat} (h : n < 16) : digitVal (hexDigit n) = some n := by
  revert n
  decide

theorem digitsVal_append (base acc : Nat) (xs ys : List Char) :
    digitsVal base acc (xs ++ ys) = (digitsVal base acc xs).bind fun a => digitsVal base a ys := by
  induction xs generalizing acc with
  | nil => rfl
  | cons c xs ih =>
    simp only [List.cons_append, digitsVal]
    cases digitVal c with
    | none => rfl
    | some n =>
      by_cases hn : n < base
      · simp only [hn, if_true, ih]
      · simp only [hn, if_false, Option.bind_none]

/-- The digits of a number that fits in `k` of them spell that number. -/
theorem digitsVal_hexDigits {k n : Nat} (h : n < 16 ^ k) : digitsVal 16 0 (hexDigits k n) = some n := by
  induction k generalizing n with
  | zero =>
    obtain rfl : n = 0 := by simpa using h
    rfl
  | succ k ih =>
    have hlt : n % 16 < 16 := Nat.mod_lt _ (by decide)
    have hhigh : n / 16 < 16 ^ k := by rw [Nat.pow_succ] at h; omega
    rw [hexDigits, digitsVal_append, ih hhigh]
    simp only [Option.bind_some, digitsVal, digitVal_hexDigit hlt, hlt, if_true]
    exact congrArg some (Nat.div_add_mod' n 16)

theorem numberVal_hexNumber {k n : Nat} (h : n < 16 ^ (k + 1)) : numberVal (hexNumber (k + 1) n) = some n := by
  obtain ⟨c, cs, hcs⟩ := List.exists_cons_of_ne_nil (show hexDigits (k + 1) n ≠ [] by simp [hexDigits])
  rw [← digitsVal_hexDigits h, hexNumber, hcs]
  rfl

/-- An operand is read back from its digits, four bits each (R102). -/
theorem operandVal_hexNumber {w k : Nat} (hw : w = 4 * (k + 1)) (v : BitVec w) :
    operandVal w (hexNumber (k + 1) v.toNat) = .ok v := by
  have hpow : 16 ^ (k + 1) = 2 ^ w := by rw [hw, Nat.pow_mul]
  have hlt : v.toNat < 2 ^ w := v.isLt
  simp [operandVal, numberVal_hexNumber (hpow ▸ hlt), hlt]

/-! ### Tokens and the text around them -/

/-- A character that stands for itself in a mnemonic or an operand: no comment sign, comma or blank (log 20). -/
def plainChar (c : Char) : Bool := c != '#' && c != ',' && !isBlank c

/-- A mnemonic or an operand as it stands in a line. -/
def isToken (cs : List Char) : Bool := !cs.isEmpty && cs.all plainChar

/-- Text that is read as it stands: not empty, without a comment, and without a blank at either end. -/
structure Settled (cs : List Char) : Prop where
  nonempty  : cs ≠ []
  noComment : '#' ∉ cs
  head      : ∀ c ∈ cs.head?, isBlank c = false
  last      : ∀ c ∈ cs.getLast?, isBlank c = false

theorem isToken_iff {cs : List Char} :
    isToken cs = true ↔ cs ≠ [] ∧ ∀ c ∈ cs, c ≠ '#' ∧ c ≠ ',' ∧ isBlank c = false := by
  simp [isToken, plainChar, and_assoc]

theorem not_isBlank_of_token {cs : List Char} (h : isToken cs = true) : ∀ c ∈ cs, (!isBlank c) = true := by
  intro c hc
  obtain ⟨-, -, hblank⟩ := (isToken_iff.1 h).2 c hc
  rw [hblank, Bool.not_false]

theorem settled_of_token {cs : List Char} (h : isToken cs = true) : Settled cs := by
  obtain ⟨hne, hplain⟩ := isToken_iff.1 h
  exact ⟨hne, fun hc => (hplain _ hc).1 rfl, fun c hc => (hplain c (List.mem_of_mem_head? hc)).2.2,
    fun c hc => (hplain c (List.mem_of_getLast? hc)).2.2⟩

/-- Two such texts and what separates them are such a text. -/
theorem Settled.join {p sep q : List Char} (hp : Settled p) (hq : Settled q) (hsep : '#' ∉ sep) :
    Settled (p ++ (sep ++ q)) := by
  refine ⟨by simp [hp.nonempty], by simp [hp.noComment, hsep, hq.noComment], ?_, ?_⟩
  · have hhead : (p ++ (sep ++ q)).head? = p.head? := by
      rw [List.head?_append, List.head?_eq_some_head hp.nonempty, Option.some_or]
    rw [hhead]
    exact hp.head
  · have hlast : (p ++ (sep ++ q)).getLast? = q.getLast? := by
      rw [← List.append_assoc, List.getLast?_append, List.getLast?_eq_some_getLast hq.nonempty, Option.some_or]
    rw [hlast]
    exact hq.last

theorem dropComment_eq_self {cs : List Char} (h : '#' ∉ cs) : dropComment cs = cs := by
  induction cs with
  | nil => rfl
  | cons c cs ih =>
    obtain ⟨hc, hcs⟩ := List.ne_and_not_mem_of_not_mem_cons h
    rw [dropComment, if_neg hc.symm, ih hcs]

theorem dropWhile_isBlank_eq_self {cs : List Char} (h : ∀ c ∈ cs.head?, isBlank c = false) :
    cs.dropWhile isBlank = cs := by
  cases cs with
  | nil => rfl
  | cons c cs => simp [h c rfl]

theorem Settled.trimmed_eq {cs : List Char} (h : Settled cs) : trimmed cs = cs := by
  have hlast : ∀ c ∈ cs.reverse.head?, isBlank c = false := by
    rw [List.head?_reverse]
    exact h.last
  rw [trimmed, dropWhile_isBlank_eq_self h.head, dropWhile_isBlank_eq_self hlast, List.reverse_reverse]

/-- A blank before the text is dropped. -/
theorem trimmed_space_cons (cs : List Char) : trimmed (' ' :: cs) = trimmed cs := rfl

theorem not_comma_mem_of_token {cs : List Char} (h : isToken cs = true) : ',' ∉ cs :=
  fun hc => ((isToken_iff.1 h).2 _ hc).2.1 rfl

theorem commaParts_of_not_mem {p : List Char} (h : ',' ∉ p) : commaParts p = [p] := by
  induction p with
  | nil => rfl
  | cons c p ih =>
    obtain ⟨hc, hp⟩ := List.ne_and_not_mem_of_not_mem_cons h
    simp [commaParts, hc.symm, ih hp]

theorem commaParts_append_comma {p : List Char} (rest : List Char) (h : ',' ∉ p) :
    commaParts (p ++ ',' :: rest) = p :: commaParts rest := by
  induction p with
  | nil => rfl
  | cons c p ih =>
    obtain ⟨hc, hp⟩ := List.ne_and_not_mem_of_not_mem_cons h
    simp [commaParts, hc.symm, ih hp]

/-! ### Lines -/

theorem parseLine_mnemonic {m : List Char} (hm : isToken m = true) : parseLine m = parseMnemonic m [] := by
  have hs := settled_of_token hm
  have hblank := not_isBlank_of_token hm
  have htake := List.takeWhile_append_of_pos (l₂ := []) hblank
  have hdrop := List.dropWhile_append_of_pos (l₂ := []) hblank
  rw [List.append_nil] at htake hdrop
  simp only [parseLine, dropComment_eq_self hs.noComment, hs.trimmed_eq]
  rw [htake, hdrop, List.takeWhile_nil, List.append_nil]
  rfl

theorem parseLine_operands {m ops : List Char} (hm : isToken m = true) (hops : Settled ops) :
    parseLine (m ++ ' ' :: ops) = parseMnemonic m ((commaParts ops).map trimmed) := by
  have hs : Settled (m ++ ' ' :: ops) := (settled_of_token hm).join (sep := [' ']) hops (by decide)
  have hblank := not_isBlank_of_token hm
  simp only [parseLine, dropComment_eq_self hs.noComment, hs.trimmed_eq]
  rw [List.takeWhile_append_of_pos hblank, List.dropWhile_append_of_pos hblank,
    List.takeWhile_cons_of_neg (by decide), List.dropWhile_cons_of_neg (by decide), trimmed_space_cons,
    hops.trimmed_eq, List.append_nil, if_neg (by simpa using hops.nonempty)]

theorem parseLine_oneToken {m p : List Char} (hm : isToken m = true) (hp : isToken p = true) :
    parseLine (m ++ ' ' :: p) = parseMnemonic m [p] := by
  have hs := settled_of_token hp
  rw [parseLine_operands hm hs, commaParts_of_not_mem (not_comma_mem_of_token hp), List.map_singleton, hs.trimmed_eq]

theorem parseLine_twoTokens {m p q : List Char} (hm : isToken m = true) (hp : isToken p = true)
    (hq : isToken q = true) : parseLine (m ++ ' ' :: (p ++ ',' :: ' ' :: q)) = parseMnemonic m [p, q] := by
  have hps := settled_of_token hp
  have hqs := settled_of_token hq
  have hops : Settled (p ++ ',' :: ' ' :: q) := hps.join (sep := [',', ' ']) hqs (by decide)
  have hspace : ',' ∉ ' ' :: q := List.not_mem_cons_of_ne_of_not_mem (by decide) (not_comma_mem_of_token hq)
  rw [parseLine_operands hm hops, commaParts_append_comma _ (not_comma_mem_of_token hp),
    commaParts_of_not_mem hspace, List.map_cons, List.map_singleton, trimmed_space_cons, hps.trimmed_eq,
    hqs.trimmed_eq]

/-! ### The lines of the stimuli -/

theorem isToken_hexNumber (k n : Nat) : isToken (hexNumber k n) = true := by
  have hdigit : ∀ d < 16, plainChar (hexDigit d) = true := by decide
  have hdigits : (hexDigits k n).all plainChar = true := by
    induction k generalizing n with
    | zero => rfl
    | succ k ih =>
      rw [hexDigits, List.all_append, ih, List.all_cons, hdigit _ (Nat.mod_lt _ (by decide))]
      rfl
  exact hdigits

/-- A line with one operand, where the mnemonic takes one (R106). -/
theorem parseLine_line1 {m : String} {w k : Nat} {mk : BitVec w → Instr} (v : BitVec w)
    (hm : isToken m.toList = true) (hparse : ∀ p, parseMnemonic m.toList [p] = oneOperand w mk [p])
    (hw : w = 4 * (k + 1)) : parseLine (line1 m (hexNumber (k + 1) v.toNat)) = .ok (mk v) := by
  rw [line1, parseLine_oneToken hm (isToken_hexNumber _ _), hparse]
  simp only [oneOperand, operandVal_hexNumber hw]

/-- A line with two operands, where the mnemonic takes two (R106). -/
theorem parseLine_line2 {m : String} {w w' k k' : Nat} {mk : BitVec w → BitVec w' → Instr} (v : BitVec w)
    (v' : BitVec w') (hm : isToken m.toList = true)
    (hparse : ∀ p q, parseMnemonic m.toList [p, q] = twoOperands w w' mk [p, q])
    (hw : w = 4 * (k + 1)) (hw' : w' = 4 * (k' + 1)) :
    parseLine (line2 m (hexNumber (k + 1) v.toNat) (hexNumber (k' + 1) v'.toNat)) = .ok (mk v v') := by
  rw [line2, parseLine_twoTokens hm (isToken_hexNumber _ _) (isToken_hexNumber _ _), hparse]
  simp only [twoOperands, operandVal_hexNumber hw, operandVal_hexNumber hw']

/-- Settles O6: every line is a mnemonic and the digits of its operands, each read back as it was written. -/
theorem textLinesReadBack : Obligations.TextLinesReadBack := by
  intro i
  cases i with
  | beginRead | tick | pollBusy | xferDone | busTimeout | evSb | evAddr | evBtf | evTxe | csBegin =>
    exact ⟨_, (parseLine_mnemonic rfl).trans rfl, fun _ => rfl⟩
  | enqueue r l => exact ⟨_, parseLine_line2 r l rfl (fun _ _ => rfl) rfl rfl, fun _ => rfl⟩
  | csEnter l | csExit l | evRxne l => exact ⟨_, parseLine_line1 l rfl (fun _ => rfl) rfl, fun _ => rfl⟩
  -- BEGIN_WRITE and the spellings of BUS_EVENT with two operands
  | _ x y => exact ⟨_, parseLine_line2 x y rfl (fun _ _ => rfl) rfl rfl, fun _ => rfl⟩

end Sys2Proof.Machine

/-! PROOFS. The host commands of the bus engine (40_bus_commands.md): what each is on a block that is not halted, and
from it the effect of a begin on an idle engine, of a begin while busy, and of POLL_BUSY. -/

namespace Sys2Proof.Machine

/-! ### The commands of a running block -/

section Running

variable {s : State} (hrun : s.halt = none)
include hrun

theorem unlessHalted_of_running (body : State → State) : unlessHalted s body = body s := by
  simp [unlessHalted, hrun]

theorem beginWrite_of_running (register value : Byte) :
    beginWrite register value s =
      if s.txn.busy then raiseFatal .precondition s else deliver (armedWrite register value s) :=
  unlessHalted_of_running hrun _

theorem beginRead_of_running :
    beginRead s = if s.txn.busy then raiseFatal .precondition s else deliver (armedRead s) :=
  unlessHalted_of_running hrun _

theorem exec_pollBusy_of_running : exec .pollBusy s = .next (deliver (s.emit (.busy s.txn.busy))) :=
  congrArg Host.Outcome.next (unlessHalted_of_running hrun _)

theorem exec_beginWrite_of_idle (hidle : s.txn.busy = false) (register value : Byte) :
    exec (.beginWrite register value) s = .next (deliver (armedWrite register value s)) := by
  have hwrite : beginWrite register value s = deliver (armedWrite register value s) := by
    simp [beginWrite_of_running hrun, hidle]
  exact congrArg Host.Outcome.next hwrite

/-- TICK is BEGIN_READ (R124). -/
theorem exec_beginRead_of_idle {i : Instr} (hi : i = .beginRead ∨ i = .tick) (hidle : s.txn.busy = false) :
    exec i s = .next (deliver (armedRead s)) := by
  have hread : beginRead s = deliver (armedRead s) := by simp [beginRead_of_running hrun, hidle]
  rcases hi with rfl | rfl <;> exact congrArg Host.Outcome.next hread

/-- A begin does not reach its `Deliver()` when it raises Fatal (R127, R214). -/
theorem exec_begin_of_busy {i : Instr} (hi : isBegin i = true) (hbusy : s.txn.busy = true) :
    exec i s = .next (raiseFatal .precondition s) := by
  have hread : beginRead s = raiseFatal .precondition s := by simp [beginRead_of_running hrun, hbusy]
  cases i with
  | beginWrite r v =>
    have hwrite : beginWrite r v s = raiseFatal .precondition s := by simp [beginWrite_of_running hrun, hbusy]
    exact congrArg Host.Outcome.next hwrite
  | beginRead | tick => exact congrArg Host.Outcome.next hread
  | _ => cases hi

end Running

/-! ### What the begins and POLL_BUSY hand to `Deliver()` -/

theorem armedWrite_env (register value : Byte) (s : State) :
    (armedWrite register value s).env = { s.env with trace := s.env.trace ++ [.clrStatus, .ctlStart] } := by
  simp [armedWrite, acquireBody, State.emit]

theorem armedRead_env (s : State) :
    (armedRead s).env = { s.env with trace := s.env.trace ++ [.clrStatus, .ctlStart] } := by
  simp [armedRead, acquireBody, State.emit]

/-! ### The statements -/

/-- Settles O12: the armed engine has no latch, so its `Deliver()` only serves the transmit path. -/
theorem beginWriteArmsTheWrite : Obligations.BeginWriteArmsTheWrite := by
  intro register value s hrun hidle
  have hlatch : busReq (armedWrite register value s) = false := (no_busReq_after_begin register value s).1
  exact ⟨_, exec_beginWrite_of_idle hrun hidle register value,
    engineMoves_of_noBus hlatch hrun hrun rfl rfl rfl (armedWrite_env register value s) (by decide)⟩

/-- Settles O13: the armed engine has no latch, so its `Deliver()` only serves the transmit path. -/
theorem beginReadArmsTheRead : Obligations.BeginReadArmsTheRead := by
  intro i s hi hrun hidle
  have hlatch : busReq (armedRead s) = false := (no_busReq_after_begin 0 0 s).2.1
  exact ⟨_, exec_beginRead_of_idle hrun hi hidle,
    engineMoves_of_noBus hlatch hrun hrun rfl rfl rfl (armedRead_env s) (by decide)⟩

/-- Settles O15: the answer asserts no bus request, so `Deliver()` only serves the transmit path. -/
theorem pollBusyAnswers : Obligations.PollBusyAnswers := by
  intro s hrun hquiet
  exact ⟨_, exec_pollBusy_of_running hrun,
    engineMoves_of_noBus (u := s.emit (.busy s.txn.busy)) hquiet hrun hrun rfl rfl rfl rfl
      (by simp [Action.isTransmit])⟩

/-- Settles O14: a begin while busy is `raise Fatal(PRECONDITION)`, which writes `halt` and the trace only. -/
theorem beginWhileBusyIsFatal : Obligations.BeginWhileBusyIsFatal := by
  intro i s hi hrun hbusy
  have hbegin : isBegin i = true := by rcases hi with ⟨r, v, rfl⟩ | rfl | rfl <;> rfl
  exact exec_begin_of_busy hrun hbegin hbusy

end Sys2Proof.Machine

/-! PROOFS. The bus events (41_bus_event_steps.md). What a step does on its awaited flag is said once, in `stepped`;
`onBusEvent_at` makes it the handler's effect and `exec_delivered` the effect of a stimulus. A whole transaction is a
run of the engine on its own, `EngineRuns`, which `runAll_of_engineRuns` carries over to the block. -/

namespace Sys2Proof.Machine

/-! ### What each step writes and emits on its awaited flag -/

/-- The transaction after a step (R144 to R153). -/
def stepTxn (cfg : Config) (d : Byte) (txn : Txn) : StepLabel → Txn
  | .w1 | .rd1 => { txn with step := 1 }
  | .w2 | .rd2 => { txn with step := 2 }
  | .w3 | .rd3 => { txn with step := 3 }
  | .w4 => { txn with busy := false, step := 4 }
  | .rd4 => { txn with step := 4 }
  | .rd5 => { txn with step := 5 }
  | .rd6 =>
    match nextAxis txn.currentAxis with
    | some a =>
      { txn with step := 0, register := axisReg cfg a, currentAxis := a,
                 readings := txn.readings.set d txn.currentAxis }
    | none => { txn with busy := false, step := 6, readings := txn.readings.set d txn.currentAxis }

/-- The enables after a step: W3, RD5 and RD6 move one source, a release clears all (R143, R146, R152, R153). -/
def stepIen (txn : Txn) (ien : Enables) : StepLabel → Enables
  | .w3 => { ien with tx := false }
  | .w4 => ⟨false, false, false⟩
  | .rd5 => { ien with rx := true }
  | .rd6 =>
    match nextAxis txn.currentAxis with
    | some _ => { ien with rx := false }
    | none => ⟨false, false, false⟩
  | .w1 | .w2 | .rd1 | .rd2 | .rd3 | .rd4 => ien

/-- `bus.ack` after a step: RD4 arms NACK (R151). -/
def stepAck (ack : Bool) : StepLabel → Bool
  | .rd4 => false
  | .w1 | .w2 | .w3 | .w4 | .rd1 | .rd2 | .rd3 | .rd5 | .rd6 => ack

/-- What a step emits (R144 to R153). -/
def stepOut (cfg : Config) (d : Byte) (txn : Txn) : StepLabel → List Action
  | .w1 | .rd1 => [.drWrite (addrByte cfg .write)]
  | .w2 => [.clrAddr, .drWrite txn.register]
  | .w3 => [.drWrite txn.writeValue]
  | .w4 => [.ctlStop, .writeComplete]
  | .rd2 => [.clrAddr, .drWrite (axisReg cfg txn.currentAxis)]
  | .rd3 => [.ctlStart]
  | .rd4 => [.drWrite (addrByte cfg .read), .ctlNack]
  | .rd5 => .clrAddr :: if txn.currentAxis = .z then [.ctlStop] else []
  | .rd6 =>
    match nextAxis txn.currentAxis with
    | some _ => [.drRead d, .ctlStart]
    | none =>
      [.drRead d, .readComplete (txn.readings.set d txn.currentAxis).x (txn.readings.set d txn.currentAxis).y
        (txn.readings.set d txn.currentAxis).z]

/-- The state after a step that found its awaited flag. -/
def stepped (d : Byte) (s : State) (k : StepLabel) : State :=
  { s with txn := stepTxn s.env.cfg d s.txn k, ien := stepIen s.txn s.ien k,
           bus := { s.bus with ack := stepAck s.bus.ack k },
           env := { s.env with trace := s.env.trace ++ stepOut s.env.cfg d s.txn k } }

theorem onFlag_of_body {fl : Flag} {f : FlagVec} {body : State → State} {s t : State} (h : body s = t) :
    onFlag fl f body s = if observed fl f = true then t else s := by
  rw [← h, onFlag]

/-- States are equal when their traces are and nothing else differs. -/
theorem State.eq_of_trace_eq {s t : State} (htrace : s.env.trace = t.env.trace)
    (hrest : { s with env := { s.env with trace := t.env.trace } } = t) : s = t := by
  rw [← hrest, ← htrace]

/-- Each step does what `stepped` says on its awaited flag, and nothing without it (R142). -/
theorem runStep_eq (f : FlagVec) (d : Byte) (s : State) (k : StepLabel) :
    runStep f d s k = if observed (awaited k) f = true then stepped d s k else s := by
  cases k with
  | rd5 =>
    dsimp only [runStep, stepRd5]
    refine onFlag_of_body ?_
    by_cases hz : s.txn.currentAxis = .z <;> simp only [hz, if_true, if_false] <;>
      exact State.eq_of_trace_eq (by simp [stepped, stepOut, hz]) rfl
  | rd6 =>
    dsimp only [runStep, stepRd6]
    refine onFlag_of_body ?_
    dsimp only [stepped, stepTxn, stepIen, stepOut]
    cases hn : nextAxis s.txn.currentAxis <;>
      exact State.eq_of_trace_eq (by simp [release]) rfl
  | _ =>
    dsimp only [runStep, stepW1, stepW2, stepW3, stepW4, stepRd1, stepRd2, stepRd3, stepRd4]
    refine onFlag_of_body ?_
    exact State.eq_of_trace_eq (by simp [stepped, stepOut, release]) rfl

theorem stepOut_not_transmit (cfg : Config) (d : Byte) (txn : Txn) (k : StepLabel) :
    ∀ a ∈ stepOut cfg d txn k, a.isTransmit = false := by
  cases k with
  | rd5 => cases h : txn.currentAxis <;> simp [stepOut, h, Action.isTransmit]
  | rd6 =>
    simp only [stepOut]
    split <;> simp [Action.isTransmit]
  | _ => simp [stepOut, Action.isTransmit]

/-- At a defined pair the handler is the pair's step (R141, R142). -/
theorem onBusEvent_at {f : FlagVec} {d : Byte} {s : State} {k : StepLabel} (hbusy : s.txn.busy = true)
    (hk : stepAt s.txn.direction s.txn.step = some k) :
    onBusEvent f d s = if observed (awaited k) f = true then stepped d s k else s := by
  rcases onBusEvent_cases f d s with ⟨k', -, hk', e⟩ | ⟨hidle | hnone, -⟩
  · obtain rfl : k' = k := Option.some.inj (hk'.symm.trans hk)
    rw [e, runStep_eq]
  · exact absurd (hbusy.symm.trans hidle) (by decide)
  · exact absurd (hk.symm.trans hnone) (by simp)

/-- At an undefined pair, and with no transaction busy, the handler is fatal (R154, R155). -/
theorem onBusEvent_of_undefined {f : FlagVec} {d : Byte} {s : State}
    (h : s.txn.busy = false ∨ stepAt s.txn.direction s.txn.step = none) :
    onBusEvent f d s = raiseFatal .sequencing s := by
  rcases onBusEvent_cases f d s with ⟨k, hbusy, hk, -⟩ | ⟨-, e⟩
  · rcases h with hidle | hnone
    · exact absurd (hbusy.symm.trans hidle) (by decide)
    · exact absurd (hk.symm.trans hnone) (by simp)
  · exact e

/-- Settles O18: W1, W2 and W3 as `stepped` writes them out. -/
theorem handlerRunsWriteSteps : Obligations.HandlerRunsWriteSteps := by
  intro f d s hbusy hdir
  refine ⟨fun hstep => onBusEvent_at (k := .w1) hbusy ?_, fun hstep => onBusEvent_at (k := .w2) hbusy ?_,
    fun hstep => onBusEvent_at (k := .w3) hbusy ?_⟩ <;> rw [hdir, hstep] <;> rfl

/-- Settles O19: RD1, RD3 and RD5 as `stepped` writes them out. -/
theorem handlerRunsReadSteps : Obligations.HandlerRunsReadSteps := by
  intro f d s hbusy hdir
  refine ⟨fun hstep => onBusEvent_at (k := .rd1) hbusy ?_, fun hstep => onBusEvent_at (k := .rd3) hbusy ?_,
    fun hstep => onBusEvent_at (k := .rd5) hbusy ?_⟩ <;> rw [hdir, hstep] <;> rfl

/-- Settles O20: the flags enter `onBusEvent_at` through the awaited one only. -/
theorem unrelatedFlagIsNoOp : Obligations.UnrelatedFlagIsNoOp := by
  intro f g d s k hbusy hk
  refine ⟨fun hf => ?_, fun hfg => ?_⟩
  · simp [onBusEvent_at hbusy hk, hf]
  · rw [onBusEvent_at hbusy hk, onBusEvent_at hbusy hk, hfg]

theorem stepAt_eq_none_iff (dir : Direction) (n : StepNo) :
    stepAt dir n = none ↔ (dir = .write ∧ 4 ≤ n.toNat ∨ dir = .read ∧ 6 ≤ n.toNat) := by
  cases dir <;> revert n <;> decide

/-- Settles O21: the handler's other case is fatal, and the invariants bound the step of a busy engine. -/
theorem undefinedPairIsFatal : Obligations.UndefinedPairIsFatal := by
  refine ⟨stepAt_eq_none_iff, fun f d s _ hnone => onBusEvent_of_undefined (.inr hnone), fun s hinv hbusy => ?_⟩
  obtain ⟨hengine, -⟩ := invariants_iff.1 hinv
  exact hengine.stepAt_ne_none hbusy

/-! ### Presentations as stimuli -/

/-- A presentation to a running block is latched and delivered, under every spelling (R140, R104). -/
theorem exec_present_of_running {i : Instr} {f : FlagVec} {d : Byte} {s : State} (hi : presentation i = some (f, d))
    (hrun : s.halt = none) : exec i s = .next (deliver (s.latch f d)) := by
  rw [exec_present hi, present, unlessHalted_of_running hrun]

/-- Settles O22: the latched presentation asserts no request, so `Deliver()` only serves the transmit path. -/
theorem heldPresentationIsOnlyLatched : Obligations.HeldPresentationIsOnlyLatched := by
  intro i f d s hi hrun hheld
  have hquiet : busReq (s.latch f d) = false := by
    rcases hheld with hgate | hmask
    · simp [busReq, hgate]
    · simp [busReq, BitVec.not_lt.2 hmask]
  exact ⟨_, exec_present_of_running hi hrun,
    engineMoves_of_noBus (out := []) hquiet hrun hrun rfl rfl rfl (by simp [State.latch]) (by simp)⟩

/-- Settles O23: the step finds no awaited flag, so only the latch has changed. -/
theorem unrelatedPresentationIsNoOp : Obligations.UnrelatedPresentationIsNoOp := by
  intro i f d s k hi hrun hbusy hk hgate hmask hflag
  refine ⟨_, exec_present hi, present_moves [] s.txn s.ien _ hrun hgate hmask ?_ (by simp)⟩
  rw [onBusEvent_at (s := (s.latch f d).setPend false) hbusy hk]
  simp [hflag, State.latch, State.setPend]

/-- A presentation delivered with its awaited flag moves the engine by the step of the pair (R140, R141, R194). -/
theorem exec_delivered {i : Instr} {f : FlagVec} {d : Byte} {s : State} {k : StepLabel}
    (hi : presentation i = some (f, d)) (hrun : s.halt = none) (hbusy : s.txn.busy = true)
    (hk : stepAt s.txn.direction s.txn.step = some k) (hgate : gate s.ien f = true)
    (hmask : s.prioMask < s.env.cfg.pBus) (hflag : observed (awaited k) f = true) :
    ∃ t, exec i s = .next t ∧
      EngineMoves s t (stepTxn s.env.cfg d s.txn k) (stepIen s.txn s.ien k)
        { ack := stepAck s.bus.ack k, flags := f, data := d, pend := false } (stepOut s.env.cfg d s.txn k) := by
  refine ⟨_, exec_present hi, present_moves _ _ _ _ hrun hgate hmask ?_ (stepOut_not_transmit _ _ _ k)⟩
  rw [onBusEvent_at (s := (s.latch f d).setPend false) hbusy hk, if_pos hflag]
  rfl

/-- The pair of a step selects it (R23). -/
theorem stepAt_own (k : StepLabel) : stepAt k.direction (BitVec.ofNat 3 k.number) = some k := by
  cases k <;> rfl

/-- `exec_delivered` at a step's own pair. -/
theorem exec_delivered_at (k : StepLabel) {i : Instr} {f : FlagVec} {d : Byte} {s : State}
    (hi : presentation i = some (f, d)) (hrun : s.halt = none) (hbusy : s.txn.busy = true)
    (hdir : s.txn.direction = k.direction) (hstep : s.txn.step = BitVec.ofNat 3 k.number)
    (hgate : gate s.ien f = true) (hmask : s.prioMask < s.env.cfg.pBus) (hflag : observed (awaited k) f = true) :
    ∃ t, exec i s = .next t ∧
      EngineMoves s t (stepTxn s.env.cfg d s.txn k) (stepIen s.txn s.ien k)
        { ack := stepAck s.bus.ack k, flags := f, data := d, pend := false } (stepOut s.env.cfg d s.txn k) :=
  exec_delivered hi hrun hbusy (by rw [hdir, hstep, stepAt_own]) hgate hmask hflag

/-- BUS_EVENT, a row of it and a pseudo-stimulus with the row's flag present the same (R104, R107). -/
theorem presentation_of_spelling {i row pseudo : Instr} {f g : FlagVec} {d : Byte}
    (hi : i = .busEvent f d ∨ i = row ∨ (i = pseudo ∧ f = g ∧ d = 0)) (hrow : presentation row = some (f, d))
    (hpseudo : presentation pseudo = some (g, 0)) : presentation i = some (f, d) := by
  rcases hi with rfl | rfl | ⟨rfl, rfl, rfl⟩
  · rfl
  · exact hrow
  · exact hpseudo

/-- Settles O24: step 0 is W1 in a WRITE and RD1 in a READ, with one effect. -/
theorem startSentTransmitsTheAddress : Obligations.StartSentTransmitsTheAddress := by
  intro i f d s hi hrun hbusy hstep hevt hmask hflag
  have hi : presentation i = some (f, d) := by rcases hi with rfl | ⟨rfl, -⟩ | ⟨rfl, -⟩ | ⟨rfl, rfl, rfl⟩ <;> rfl
  have hgate := gate_of_flag hevt (.inl hflag)
  cases hdir : s.txn.direction with
  | write => exact exec_delivered_at .w1 hi hrun hbusy hdir hstep hgate hmask hflag
  | read => exact exec_delivered_at .rd1 hi hrun hbusy hdir hstep hgate hmask hflag

/-- Settles O25, as W2. -/
theorem addressedWriteSendsTheRegister : Obligations.AddressedWriteSendsTheRegister := by
  intro i f d s hi hrun hbusy hdir hstep hevt hmask hflag
  exact exec_delivered_at .w2 (presentation_of_spelling hi rfl rfl) hrun hbusy hdir hstep
    (gate_of_flag hevt (.inr (.inl hflag))) hmask hflag

/-- Settles O26, as W3. -/
theorem emptyTransmitterSendsTheValue : Obligations.EmptyTransmitterSendsTheValue := by
  intro i f d s hi hrun hbusy hdir hstep hgate hmask hflag
  exact exec_delivered_at .w3 (presentation_of_spelling hi rfl rfl) hrun hbusy hdir hstep
    hgate hmask hflag

/-- Settles O27, as W4. -/
theorem finishedWriteReleasesAndNotifies : Obligations.FinishedWriteReleasesAndNotifies := by
  intro i f d s hi hrun hbusy hdir hstep hevt hmask hflag
  exact exec_delivered_at .w4 (presentation_of_spelling hi rfl rfl) hrun hbusy hdir hstep
    (gate_of_flag hevt (.inr (.inr hflag))) hmask hflag

/-- Settles O28, as RD2. -/
theorem addressedReadSelectsTheAxis : Obligations.AddressedReadSelectsTheAxis := by
  intro i f d s hi hrun hbusy hdir hstep hevt hmask hflag
  exact exec_delivered_at .rd2 (presentation_of_spelling hi rfl rfl) hrun hbusy hdir hstep
    (gate_of_flag hevt (.inr (.inl hflag))) hmask hflag

/-- Settles O29, as RD3. -/
theorem selectedReadRepeatsTheStart : Obligations.SelectedReadRepeatsTheStart := by
  intro i f d s hi hrun hbusy hdir hstep hevt hmask hflag
  exact exec_delivered_at .rd3 (presentation_of_spelling hi rfl rfl) hrun hbusy hdir hstep
    (gate_of_flag hevt (.inr (.inr hflag))) hmask hflag

/-- Settles O30, as RD4. -/
theorem repeatedStartArmsNack : Obligations.RepeatedStartArmsNack := by
  intro i f d s hi hrun hbusy hdir hstep hevt hmask hflag
  exact exec_delivered_at .rd4 (presentation_of_spelling hi rfl rfl) hrun hbusy hdir hstep
    (gate_of_flag hevt (.inl hflag)) hmask hflag

/-- Settles O31, as RD5. -/
theorem addressedReceiveArmsTheByteSource : Obligations.AddressedReceiveArmsTheByteSource := by
  intro i f d s hi hrun hbusy hdir hstep hevt hmask hflag
  exact exec_delivered_at .rd5 (presentation_of_spelling hi rfl rfl) hrun hbusy hdir hstep
    (gate_of_flag hevt (.inr (.inl hflag))) hmask hflag

/-- Settles O32, as RD6: the axis selects the slot and the way on. -/
theorem receivedByteIsStored : Obligations.ReceivedByteIsStored := by
  intro i f d s hi hrun hbusy hdir hstep hgate hmask hflag
  have hi : presentation i = some (f, d) := by rcases hi with rfl | rfl | ⟨rfl, rfl⟩ <;> rfl
  obtain ⟨t, hexec, hmoves⟩ := exec_delivered_at .rd6 hi hrun hbusy hdir hstep hgate hmask hflag
  simp only [stepTxn, stepIen, stepOut] at hmoves
  refine ⟨t, hexec, fun hx => ?_, fun hy => ?_, fun hz => ?_⟩
  · simp only [hx] at hmoves
    exact hmoves
  · simp only [hy] at hmoves
    exact hmoves
  · simp only [hz] at hmoves ⊢
    exact hmoves

/-- Settles O33: the handler is fatal, and the halted state's round serves a pending completion whatever the mask. -/
theorem undefinedPresentationHalts : Obligations.UndefinedPresentationHalts := by
  intro i f d s hi hrun hundef hgate hmask
  have hi : presentation i = some (f, d) := by rcases hi with rfl | rfl <;> rfl
  have hfatal : runBusHandler (s.latch f d) = raiseFatal .sequencing ((s.latch f d).setPend false) :=
    onBusEvent_of_undefined hundef
  have hserve : willComplete (runBusHandler (s.latch f d)) = s.dma.tc := by
    simp [hfatal, willComplete, raiseFatal]
  have hdelivered := deliver_busReq (u := s.latch f d) hrun (by simp [busReq, hgate, hmask])
  obtain ⟨htxn, hien, hbus, hhalt, hprio, hengine, henv, hleft, hserved⟩ := hdelivered
  rw [hfatal] at htxn hien hbus hhalt hengine
  rw [hserve] at hleft hserved
  refine ⟨_, exec_present_of_running hi hrun, hhalt, htxn, hien, hbus, hprio, ?_, henv, fun hnone => ?_,
    fun hpending => ?_⟩
  · rw [hengine]
    simp [engineTrace, raiseFatal, Action.isTransmit]
  · obtain ⟨hq, hdma, htrace, -⟩ := hleft hnone
    refine ⟨hq, hdma, ?_⟩
    simp [transmitTrace, htrace, hfatal, raiseFatal, Action.isTransmit]
  · obtain ⟨hq, hdma, htrace⟩ := hserved hpending
    obtain ⟨hq', hdma'⟩ := otc_congr (s := s) (t := s.latch f d) rfl rfl rfl
    exact ⟨hq.trans hq', hdma.trans hdma', htrace.trans (otc_transmitTrace_congr rfl rfl rfl)⟩

/-! ### The optional deadline -/

/-- Settles O17: the abort closes the gate, so its `Deliver()` only serves the transmit path. -/
theorem busTimeoutAborts : Obligations.BusTimeoutAborts := by
  refine ⟨fun s htimeout hrun hbusy => ?_, fun s htimeout hrun hidle => ?_, fun s hnone => ?_⟩
  · have hbody : busTimeout s = deliver (aborted s) := by
      rw [busTimeout, unlessHalted_of_running hrun, if_pos hbusy]
      rfl
    have hexec : exec .busTimeout s = .next (deliver (aborted s)) :=
      (if_pos htimeout).trans (congrArg Host.Outcome.next hbody)
    obtain ⟨-, -, hquiet⟩ := no_busReq_after_begin 0 0 s
    have henv : (aborted s).env =
        { s.env with trace := s.env.trace ++ [.ctlStop, .txnFailed s.txn.direction s.txn.step] } := by
      simp [aborted, release, State.emit]
    exact ⟨_, hexec, engineMoves_of_noBus hquiet hrun hrun rfl rfl rfl henv (by simp [Action.isTransmit])⟩
  · have hbody : busTimeout s = s := by
      rw [busTimeout, unlessHalted_of_running hrun, hidle]
      rfl
    exact (if_pos htimeout).trans (congrArg Host.Outcome.next hbody)
  · exact if_neg (Bool.eq_false_iff.1 hnone)

/-! ### A stalled transaction -/

/-- A running block with the transaction `txn`, whose latch, if it waits, does not carry the flag `fl`. -/
structure Stalled (fl : Flag) (txn : Txn) (s : State) : Prop where
  running : s.halt = none
  txn_eq  : s.txn = txn
  noFlag  : s.bus.pend = true → observed fl s.bus.flags = false

theorem Stalled.congr {fl : Flag} {txn : Txn} {s t : State} (h : Stalled fl txn s) (hhalt : t.halt = s.halt)
    (htxn : t.txn = s.txn) (hbus : t.bus = s.bus) : Stalled fl txn t := by
  obtain ⟨h1, h2, h3⟩ := h
  exact ⟨hhalt.trans h1, htxn.trans h2, by rwa [hbus]⟩

section Stalled

variable {k : StepLabel} {txn : Txn} (hbusy : txn.busy = true) (hk : stepAt txn.direction txn.step = some k)
include hbusy hk

/-- A delivery uses up the latched presentation without a step (R142). -/
theorem Stalled.deliver {u : State} (h : Stalled (awaited k) txn u) : Stalled (awaited k) txn (deliver u) := by
  refine deliver_induct h (fun v hv => hv.congr rfl rfl rfl) (fun v _ hreq hv => ?_)
    (fun v _ hv => hv.congr (otc_halt v) (otc_txn v) (otc_bus v))
  obtain ⟨hrun, rfl, hflag⟩ := hv
  have hpend : v.bus.pend = true := by
    simp only [busReq, Bool.and_eq_true] at hreq
    obtain ⟨⟨hpend, -⟩, -⟩ := hreq
    exact hpend
  have hnoop : runBusHandler v = v.setPend false := by
    simp [runBusHandler, onBusEvent_at (s := v.setPend false) hbusy hk, hflag hpend]
  rw [hnoop]
  exact ⟨hrun, rfl, by simp⟩

/-- Only a begin, BUS_TIMEOUT or the awaited flag ends the stall, and a begin does not start while busy. -/
theorem Stalled.handed {i : Instr} {s u : State} (h : Stalled (awaited k) txn s) (hi : i ≠ .busTimeout)
    (hflag : ∀ f d, presentation i = some (f, d) → observed (awaited k) f = false) (hu : Handed s i u) :
    Stalled (awaited k) txn u := by
  obtain ⟨hrun, rfl, hlatch⟩ := h
  cases hu with
  | beginWrite _ hidle | beginRead _ _ hidle => exact absurd (hbusy.symm.trans hidle) (by decide)
  | enqueue =>
    obtain ⟨htxn, -, hbus, -, hhalt, -⟩ := enqueueBody_keeps _ s
    exact Stalled.congr ⟨hrun, rfl, hlatch⟩ hhalt htxn hbus
  | present hp => exact ⟨hrun, rfl, fun _ => hflag _ _ hp⟩
  | busTimeout => exact absurd rfl hi
  | _ => exact ⟨hrun, rfl, hlatch⟩

theorem Stalled.exec {i : Instr} {s t : State} (h : Stalled (awaited k) txn s) (hbegin : isBegin i = false)
    (hi : i ≠ .busTimeout) (hflag : ∀ f d, presentation i = some (f, d) → observed (awaited k) f = false)
    (hexec : exec i s = .next t) : Stalled (awaited k) txn t := by
  rcases exec_handed hexec with ⟨rfl, -⟩ | ⟨hb, -⟩ | ⟨u, hu, rfl⟩
  · exact h
  · exact absurd (hbegin.symm.trans hb) (by decide)
  · exact Stalled.deliver hbusy hk (Stalled.handed hbusy hk h hi hflag hu)

end Stalled

theorem runAll_cons_next {i : Instr} {l : List Instr} {s t : State} (h : runAll (i :: l) s = .next t) :
    ∃ u, exec i s = .next u ∧ runAll l u = .next t := by
  unfold runAll at h
  cases he : exec i s with
  | next u => exact ⟨u, rfl, by rwa [he] at h⟩
  | fault r => rw [he] at h; cases h
  | refused r => rw [he] at h; cases h

/-- Settles O52, by induction on the stimuli: each leaves the transaction stalled. -/
theorem stalledTransactionStaysStuck : Obligations.StalledTransactionStaysStuck := by
  intro k l s t hrun hbusy hk hlatch hl hexec
  have hstalled : Stalled (awaited k) s.txn s := ⟨hrun, rfl, hlatch⟩
  generalize s.txn = txn at hbusy hk hstalled ⊢
  clear hrun hlatch
  induction l generalizing s with
  | nil =>
    obtain rfl : s = t := Host.Outcome.next.inj hexec
    exact ⟨hstalled.txn_eq, hstalled.running⟩
  | cons i l ih =>
    obtain ⟨u, hu, hrest⟩ := runAll_cons_next hexec
    obtain ⟨hbegin, hi, hflag⟩ := hl i List.mem_cons_self
    exact ih u (fun j hj => hl j (List.mem_cons_of_mem i hj)) hrest
      (Stalled.exec hbusy hk hstalled hbegin hi hflag hu)

/-! ### The engine on its own

Between a begin and the last presentation the transaction and the enables alone decide what the engine does. -/

/-- The engine's transaction, enables and output. -/
structure Engine where
  txn : Txn
  ien : Enables
  out : List Action

/-- The engine after a step that found its awaited flag. -/
def Engine.step (cfg : Config) (e : Engine) (d : Byte) (k : StepLabel) : Engine :=
  { txn := stepTxn cfg d e.txn k, ien := stepIen e.txn e.ien k, out := e.out ++ stepOut cfg d e.txn k }

/-- Presentations that pass the gate of a busy engine one after another, each with the flag its step awaits. -/
inductive EngineRuns (cfg : Config) : Engine → List (FlagVec × Byte) → Engine → Prop where
  | nil {e : Engine} : EngineRuns cfg e [] e
  | cons {e e' : Engine} {p : FlagVec × Byte} {ps : List (FlagVec × Byte)} (k : StepLabel)
      (hbusy : e.txn.busy = true) (hk : stepAt e.txn.direction e.txn.step = some k) (hgate : gate e.ien p.1 = true)
      (hflag : observed (awaited k) p.1 = true) (h : EngineRuns cfg (e.step cfg p.2 k) ps e') :
      EngineRuns cfg e (p :: ps) e'

/-- A running block with the engine `e`, its bus events not masked. -/
structure EngineAt (cfg : Config) (e : Engine) (s : State) : Prop where
  running  : s.halt = none
  txn_eq   : s.txn = e.txn
  ien_eq   : s.ien = e.ien
  out_eq   : engineTrace s = e.out
  unmasked : s.prioMask < cfg.pBus
  cfg_eq   : s.env.cfg = cfg

/-- An engine move of a running block with bus events unmasked leaves such a block. -/
theorem EngineAt.of_moves {s t : State} {txn : Txn} {ien : Enables} {bus : BusLatch} {out : List Action}
    (h : EngineMoves s t txn ien bus out) (hrun : s.halt = none) (hmask : s.prioMask < s.env.cfg.pBus) :
    EngineAt s.env.cfg ⟨txn, ien, engineTrace s ++ out⟩ t := by
  obtain ⟨htxn, hien, -, hprio, hhalt, htrace, ⟨hcfg, -⟩, -⟩ := h
  exact ⟨hhalt.trans hrun, htxn, hien, htrace, hprio ▸ hmask, hcfg⟩

theorem runAll_cons {i : Instr} {l : List Instr} {s t : State} (h : exec i s = .next t) :
    runAll (i :: l) s = runAll l t := by
  simp only [runAll, h]

/-- The block follows the engine (R194). -/
theorem runAll_of_engineRuns {cfg : Config} {e e' : Engine} {s : State} {ps : List (FlagVec × Byte)}
    (h : EngineRuns cfg e ps e') (hs : EngineAt cfg e s) :
    ∃ t, runAll (ps.map fun p => .busEvent p.1 p.2) s = .next t ∧ EngineAt cfg e' t := by
  induction h generalizing s with
  | nil => exact ⟨s, rfl, hs⟩
  | @cons e e' p ps k hbusy hk hgate hflag _ ih =>
    obtain ⟨txn, ien, out⟩ := e
    obtain ⟨hrun, rfl, rfl, rfl, hmask, rfl⟩ := hs
    obtain ⟨u, hexec, hmoves⟩ := exec_delivered (i := .busEvent p.1 p.2) rfl hrun hbusy hk hgate hmask hflag
    obtain ⟨t, hrest, ht⟩ := ih (.of_moves hmoves hrun hmask)
    exact ⟨t, (runAll_cons hexec).trans hrest, ht⟩

theorem stepTxn_direction (cfg : Config) (d : Byte) (txn : Txn) (k : StepLabel) :
    (stepTxn cfg d txn k).direction = txn.direction := by
  cases k with
  | rd6 =>
    simp only [stepTxn]
    split <;> rfl
  | _ => rfl

namespace EngineRuns

variable {cfg : Config} {e e' e'' : Engine} {ps qs : List (FlagVec × Byte)}

theorem append (h : EngineRuns cfg e ps e') (h' : EngineRuns cfg e' qs e'') : EngineRuns cfg e (ps ++ qs) e'' := by
  induction h with
  | nil => exact h'
  | cons k hbusy hk hgate hflag _ ih => exact .cons k hbusy hk hgate hflag (ih h')

/-- Before the last of its presentations the engine is busy. -/
theorem take {n : Nat} (h : EngineRuns cfg e ps e') (hn : n < ps.length) :
    ∃ u, EngineRuns cfg e (ps.take n) u ∧ u.txn.busy = true := by
  induction h generalizing n with
  | nil => exact absurd hn (Nat.not_lt_zero n)
  | cons k hbusy hk hgate hflag _ ih =>
    cases n with
    | zero => exact ⟨_, .nil, hbusy⟩
    | succ n =>
      obtain ⟨u, hu, hbusy'⟩ := ih (Nat.lt_of_succ_lt_succ hn)
      exact ⟨u, .cons k hbusy hk hgate hflag hu, hbusy'⟩

/-- No step turns the transaction round (R21). -/
theorem direction_eq (h : EngineRuns cfg e ps e') : e'.txn.direction = e.txn.direction := by
  induction h with
  | nil => rfl
  | cons k _ _ _ _ _ ih => exact ih.trans (stepTxn_direction _ _ _ k)

end EngineRuns

/-! ### Whole transactions -/

/-- TXE passes the gate with the "more data" source, RXNE with the "byte received" source (R193). -/
theorem gate_of_source {ien : Enables} {f : FlagVec} (hevt : ien.evt = true)
    (h : ien.tx = true ∧ observed .txe f = true ∨ ien.rx = true ∧ observed .rxne f = true) : gate ien f = true := by
  rcases h with ⟨hon, hf⟩ | ⟨hon, hf⟩ <;> simp [gate, hevt, hon, hf]

/-- The engine that BEGIN_WRITE arms runs W1 to W4 (R144 to R147). -/
theorem engineRuns_write {cfg : Config} {register value : Byte} {readings : Readings} {out : List Action}
    {p1 p2 p3 p4 : FlagVec × Byte} (h1 : observed .sb p1.1 = true) (h2 : observed .addr p2.1 = true)
    (h3 : observed .txe p3.1 = true) (h4 : observed .btf p4.1 = true) :
    EngineRuns cfg
      { txn := { direction := .write, busy := true, step := 0, register := register, writeValue := value,
                 currentAxis := .x, readings := readings },
        ien := ⟨true, true, false⟩, out := out }
      [p1, p2, p3, p4]
      { txn := { direction := .write, busy := false, step := 4, register := register, writeValue := value,
                 currentAxis := .x, readings := readings },
        ien := ⟨false, false, false⟩,
        out := out ++ [.drWrite (addrByte cfg .write)] ++ [.clrAddr, .drWrite register] ++ [.drWrite value] ++
          [.ctlStop, .writeComplete] } :=
  .cons .w1 rfl rfl (gate_of_flag rfl (.inl h1)) h1 <|
  .cons .w2 rfl rfl (gate_of_flag rfl (.inr (.inl h2))) h2 <|
  .cons .w3 rfl rfl (gate_of_source rfl (.inl ⟨rfl, h3⟩)) h3 <|
  .cons .w4 rfl rfl (gate_of_flag rfl (.inr (.inr h4))) h4 .nil

/-- Settles O59: the engine runs W1 to W4. -/
theorem writeCompletesAfterFourFlags : Obligations.WriteCompletesAfterFourFlags := by
  intro register value f1 f2 f3 f4 d1 d2 d3 d4 s hrun hidle hmask h1 h2 h3 h4
  obtain ⟨u, hbegin, hmoves⟩ := beginWriteArmsTheWrite register value s hrun hidle
  obtain ⟨t, hevents, ht⟩ := runAll_of_engineRuns
    (engineRuns_write (p1 := (f1, d1)) (p2 := (f2, d2)) (p3 := (f3, d3)) (p4 := (f4, d4)) h1 h2 h3 h4)
    (.of_moves hmoves hrun hmask)
  refine ⟨t, (runAll_cons hbegin).trans hevents, ht.txn_eq, ht.ien_eq, ht.running, ?_⟩
  simp [ht.out_eq]

/-- The flags of one axis loop, RD1 to RD6 (R23). -/
def loopFlags : List Flag := [.sb, .addr, .btf, .sb, .addr, .rxne]

/-- Six presentations that carry the flags of one axis loop; the last brings the axis's byte. -/
structure AxisLoop where
  p1 : FlagVec × Byte
  p2 : FlagVec × Byte
  p3 : FlagVec × Byte
  p4 : FlagVec × Byte
  p5 : FlagVec × Byte
  p6 : FlagVec × Byte
  rd1 : observed .sb p1.1 = true
  rd2 : observed .addr p2.1 = true
  rd3 : observed .btf p3.1 = true
  rd4 : observed .sb p4.1 = true
  rd5 : observed .addr p5.1 = true
  rd6 : observed .rxne p6.1 = true

/-- The presentations in order. -/
def AxisLoop.list (l : AxisLoop) : List (FlagVec × Byte) := [l.p1, l.p2, l.p3, l.p4, l.p5, l.p6]

/-- The byte the loop brings. -/
def AxisLoop.byte (l : AxisLoop) : Byte := l.p6.2

/-- Each presentation carries the flag at its place. -/
inductive Carries : List Flag → List (FlagVec × Byte) → Prop where
  | nil : Carries [] []
  | cons {fl : Flag} {fls : List Flag} {p : FlagVec × Byte} {ps : List (FlagVec × Byte)}
      (hflag : observed fl p.1 = true) (h : Carries fls ps) : Carries (fl :: fls) (p :: ps)

theorem carries_of_getElem? {fls : List Flag} {ps : List (FlagVec × Byte)} (hlen : fls.length = ps.length)
    (h : ∀ (k : Nat) (fl : Flag) (p : FlagVec × Byte), fls[k]? = some fl → ps[k]? = some p →
      observed fl p.1 = true) : Carries fls ps := by
  induction fls generalizing ps with
  | nil =>
    obtain rfl : ps = [] := List.length_eq_zero_iff.1 hlen.symm
    exact .nil
  | cons fl fls ih =>
    cases ps with
    | nil => cases hlen
    | cons p ps => exact .cons (h 0 fl p rfl rfl) (ih (Nat.succ.inj hlen) fun k => h (k + 1))

/-- Presentations that begin with the flags of an axis loop begin with an axis loop. -/
theorem Carries.exists_axisLoop {fls : List Flag} {ps : List (FlagVec × Byte)} (h : Carries (loopFlags ++ fls) ps) :
    ∃ (l : AxisLoop) (rest : List (FlagVec × Byte)), ps = l.list ++ rest ∧ Carries fls rest :=
  match ps, h with
  | _, .cons h1 (.cons h2 (.cons h3 (.cons h4 (.cons h5 (.cons h6 hrest))))) =>
    ⟨⟨_, _, _, _, _, _, h1, h2, h3, h4, h5, h6⟩, _, rfl, hrest⟩

/-- The engine of a READ at the start of an axis's loop. -/
def Engine.atAxis (cfg : Config) (a : Axis) (writeValue : Byte) (readings : Readings) (out : List Action) : Engine :=
  { txn := { direction := .read, busy := true, step := 0, register := axisReg cfg a, writeValue := writeValue,
             currentAxis := a, readings := readings },
    ien := ⟨true, false, false⟩, out := out }

/-- The engine of a READ once released, its readings reported (R153). -/
def Engine.readDone (cfg : Config) (writeValue : Byte) (readings : Readings) (out : List Action) : Engine :=
  { txn := { direction := .read, busy := false, step := 6, register := cfg.axisZ, writeValue := writeValue,
             currentAxis := .z, readings := readings },
    ien := ⟨false, false, false⟩, out := out ++ [.readComplete readings.x readings.y readings.z] }

/-- What an axis's loop emits up to its byte. -/
def axisOut (cfg : Config) (a : Axis) (d : Byte) : List Action :=
  [.drWrite (addrByte cfg .write), .clrAddr, .drWrite (axisReg cfg a), .ctlStart, .drWrite (addrByte cfg .read),
    .ctlNack, .clrAddr] ++ (if a = .z then [.ctlStop] else []) ++ [.drRead d]

/-- The engine after RD1 to RD6 on a loop's presentations. -/
def Engine.afterLoop (cfg : Config) (e : Engine) (l : AxisLoop) : Engine :=
  e |>.step cfg l.p1.2 .rd1 |>.step cfg l.p2.2 .rd2 |>.step cfg l.p3.2 .rd3
    |>.step cfg l.p4.2 .rd4 |>.step cfg l.p5.2 .rd5 |>.step cfg l.p6.2 .rd6

section AxisLoop

variable {cfg : Config} {writeValue : Byte} {readings : Readings} {out : List Action} (l : AxisLoop)

theorem engineRuns_axisLoop (a : Axis) :
    EngineRuns cfg (.atAxis cfg a writeValue readings out) l.list
      ((Engine.atAxis cfg a writeValue readings out).afterLoop cfg l) :=
  .cons .rd1 rfl rfl (gate_of_flag rfl (.inl l.rd1)) l.rd1 <|
  .cons .rd2 rfl rfl (gate_of_flag rfl (.inr (.inl l.rd2))) l.rd2 <|
  .cons .rd3 rfl rfl (gate_of_flag rfl (.inr (.inr l.rd3))) l.rd3 <|
  .cons .rd4 rfl rfl (gate_of_flag rfl (.inl l.rd4)) l.rd4 <|
  .cons .rd5 rfl rfl (gate_of_flag rfl (.inr (.inl l.rd5))) l.rd5 <|
  .cons .rd6 rfl rfl (gate_of_source rfl (.inr ⟨rfl, l.rd6⟩)) l.rd6 .nil

/-- An axis's loop ends at the start of the next axis's (R153). -/
theorem engineRuns_axisLoop_next {a b : Axis} (hb : nextAxis a = some b) :
    EngineRuns cfg (.atAxis cfg a writeValue readings out) l.list
      (.atAxis cfg b writeValue (readings.set l.byte a) (out ++ axisOut cfg a l.byte ++ [.ctlStart])) := by
  have hz : a ≠ .z := by rintro rfl; cases hb
  have hafter : (Engine.atAxis cfg a writeValue readings out).afterLoop cfg l =
      .atAxis cfg b writeValue (readings.set l.byte a) (out ++ axisOut cfg a l.byte ++ [.ctlStart]) := by
    simp [Engine.afterLoop, Engine.step, Engine.atAxis, AxisLoop.byte, axisOut, stepTxn, stepIen, stepOut, hb, hz]
  exact hafter ▸ engineRuns_axisLoop l a

/-- The last axis's loop ends the transaction with the three readings (R153). -/
theorem engineRuns_axisLoop_last :
    EngineRuns cfg (.atAxis cfg .z writeValue readings out) l.list
      (.readDone cfg writeValue { readings with z := l.byte } (out ++ axisOut cfg .z l.byte)) := by
  have hafter : (Engine.atAxis cfg .z writeValue readings out).afterLoop cfg l =
      .readDone cfg writeValue { readings with z := l.byte } (out ++ axisOut cfg .z l.byte) := by
    simp [Engine.afterLoop, Engine.step, Engine.atAxis, AxisLoop.byte, axisOut, stepTxn, stepIen, stepOut, nextAxis,
      Engine.readDone, Readings.set, axisReg]
  exact hafter ▸ engineRuns_axisLoop l .z

end AxisLoop

/-- Settles O60: the engine runs three axis loops, and is busy before the last of their presentations. -/
theorem readCompletesAfterThreeLoops : Obligations.ReadCompletesAfterThreeLoops := by
  intro ps s hrun hidle hmask hlen hflags
  have hcarries : Carries (loopFlags ++ (loopFlags ++ (loopFlags ++ []))) ps := carries_of_getElem? hlen.symm hflags
  obtain ⟨lx, psy, rfl, hy⟩ := hcarries.exists_axisLoop
  obtain ⟨ly, psz, rfl, hz⟩ := hy.exists_axisLoop
  obtain ⟨lz, rest, rfl, hrest⟩ := hz.exists_axisLoop
  obtain rfl : rest = [] := by cases hrest; rfl
  obtain ⟨u, hbegin, hmoves⟩ := beginReadArmsTheRead .beginRead s (.inl rfl) hrun hidle
  have hu := EngineAt.of_moves hmoves hrun hmask
  have hruns := (engineRuns_axisLoop_next (cfg := s.env.cfg) (a := .x) (writeValue := s.txn.writeValue)
    (readings := s.txn.readings) (out := engineTrace s ++ [.clrStatus, .ctlStart]) lx rfl).append <|
    (engineRuns_axisLoop_next ly rfl).append <| (engineRuns_axisLoop_last lz).append .nil
  refine ⟨fun k hk => ?_, lx.byte, ly.byte, lz.byte, ?_⟩
  · obtain ⟨e, htake, hbusy⟩ := hruns.take (n := k) (by rw [hlen]; exact hk)
    obtain ⟨t, hevents, ht⟩ := runAll_of_engineRuns htake hu
    refine ⟨t, (runAll_cons hbegin).trans hevents, ?_, ?_, ht.running⟩
    · rw [ht.txn_eq, hbusy]
    · rw [ht.txn_eq, htake.direction_eq]
      rfl
  · obtain ⟨t, hevents, ht⟩ := runAll_of_engineRuns hruns hu
    refine ⟨t, rfl, rfl, rfl, (runAll_cons hbegin).trans hevents, ht.txn_eq, ht.ien_eq, ht.running, ?_⟩
    simp [ht.out_eq, Engine.readDone, axisOut, axisReg, Readings.set]

end Sys2Proof.Machine

/-! PROOFS. The transmit path (42_transmit.md): the order and the phase of its messages in every trace, and the effect
of ENQUEUE, XFER_DONE and the halt loop's turn. A stimulus is inverted once for the transmit path, in
`exec_transmit`, and `Deliver()` once, in `deliver_transmit_induct`; where no bus handler can run,
`exec_enqueue_noBus` and `exec_xferDone_of_active` give the next state. -/

namespace Sys2Proof.Machine

/-! ### The transmit side of a stimulus -/

/-- `t` has the transmit path of `s`: its queue, accelerator, parameters and part of the trace. -/
structure SameTransmit (s t : State) : Prop where
  q     : t.q = s.q
  dma   : t.dma = s.dma
  cfg   : t.env.cfg = s.env.cfg
  trace : transmitTrace t = transmitTrace s

theorem SameTransmit.of_eq {s t : State} (hq : t.q = s.q) (hdma : t.dma = s.dma) (hcfg : t.env.cfg = s.env.cfg)
    (htrace : t.env.trace = s.env.trace) : SameTransmit s t :=
  ⟨hq, hdma, hcfg, by rw [transmitTrace, htrace, transmitTrace]⟩

/-- An action of the bus engine is not in the transmit path's trace. -/
theorem transmitTrace_emit {s : State} {a : Action} (ha : a.isTransmit = false) :
    transmitTrace (s.emit a) = transmitTrace s := by
  simp [transmitTrace, ha]

theorem sameTransmit_emit {a : Action} (s : State) (ha : a.isTransmit = false) : SameTransmit s (s.emit a) :=
  ⟨rfl, rfl, rfl, transmitTrace_emit ha⟩

theorem SameTransmit.trans {s t u : State} (h : SameTransmit s t) (h' : SameTransmit t u) : SameTransmit s u :=
  ⟨h'.q.trans h.q, h'.dma.trans h.dma, h'.cfg.trans h.cfg, h'.trace.trans h.trace⟩

theorem sameTransmit_runBusHandler (s : State) : SameTransmit s (runBusHandler s) :=
  ⟨onBusEvent_q _ _ _, onBusEvent_dma _ _ _, onBusEvent_env_cfg _ _ _, onBusEvent_transmitTrace _ _ _⟩

/-- What of the transmit path is handed to `Deliver()`: ENQUEUE's body, a completed transfer, or the path as it
was. -/
theorem Handed.transmit {i : Instr} {s u : State} (h : Handed s i u) :
    (∃ r l, i = .enqueue r l ∧ u = enqueueBody ⟨r, l⟩ s) ∨
    (i = .xferDone ∧ s.dma.active = true ∧ u = completed s) ∨
    ((∀ r l, i ≠ .enqueue r l) ∧ SameTransmit s u) := by
  cases h with
  | enqueue => exact .inl ⟨_, _, rfl, rfl⟩
  | xferDone ha => exact .inr (.inl ⟨rfl, ha, rfl⟩)
  | pollBusy => exact .inr (.inr ⟨nofun, sameTransmit_emit s rfl⟩)
  | csExit => exact .inr (.inr ⟨nofun, .of_eq rfl rfl rfl rfl⟩)
  | csEnter hi =>
    refine .inr (.inr ⟨?_, (sameTransmit_emit s rfl).trans (.of_eq rfl rfl rfl rfl)⟩)
    rcases hi with rfl | ⟨rfl, -⟩ <;> nofun
  | present hi =>
    refine .inr (.inr ⟨?_, .of_eq rfl rfl rfl rfl⟩)
    rintro r l rfl
    cases hi
  | beginWrite =>
    exact .inr (.inr ⟨nofun, rfl, rfl, rfl, by simp [transmitTrace, armedWrite, acquireBody, Action.isTransmit]⟩)
  | beginRead hi =>
    refine .inr (.inr ⟨?_, rfl, rfl, rfl, by simp [transmitTrace, armedRead, acquireBody, Action.isTransmit]⟩)
    rcases hi with rfl | rfl <;> nofun
  | busTimeout =>
    exact .inr (.inr ⟨nofun, rfl, rfl, rfl, by simp [transmitTrace, aborted, release, Action.isTransmit]⟩)

theorem exec_xferDone_of_active {s : State} (ha : s.dma.active = true) :
    exec .xferDone s = .next (deliver (completed s)) :=
  congrArg Host.Outcome.next (if_pos ha)

theorem exec_xferDone_of_not_active {s : State} (ha : s.dma.active = false) : exec .xferDone s = .next s :=
  congrArg Host.Outcome.next (if_neg (by simp [ha]))

/-- What a stimulus does to the transmit path: it accepts or drops a message, completes the transfer in flight, or
leaves the path as it was; a `Deliver()` may follow. -/
theorem exec_transmit {i : Instr} {s t : State} (hs : TransmitInv s) (h : exec i s = .next t) :
    ∃ u, TransmitInv u ∧ (t = u ∨ t = deliver u) ∧
      ((∃ r l, i = .enqueue r l ∧ u = enqueueBody ⟨r, l⟩ s) ∨
      (i = .xferDone ∧ s.dma.active = true ∧ u = completed s) ∨
      ((i = .xferDone → s.dma.active = false) ∧ (∀ r l, i ≠ .enqueue r l) ∧ SameTransmit s u)) := by
  by_cases hx : i = .xferDone ∧ s.dma.active = true
  · obtain ⟨rfl, ha⟩ := hx
    obtain rfl := Host.Outcome.next.inj ((exec_xferDone_of_active ha).symm.trans h)
    exact ⟨_, transmitInv_completed hs ha, .inr rfl, .inr (.inl ⟨rfl, ha, rfl⟩)⟩
  · have hx' : i = .xferDone → s.dma.active = false := fun hi => by simpa [hi] using hx
    rcases exec_handed h with ⟨rfl, hi⟩ | ⟨hbegin, hh, -, rfl⟩ | ⟨u, hu, rfl⟩
    · exact ⟨t, hs, .inl rfl, .inr (.inr ⟨hx', hi, .of_eq rfl rfl rfl rfl⟩)⟩
    · refine ⟨raiseFatal .precondition s, hs.congr rfl rfl rfl rfl rfl fun _ => hh, .inl rfl, .inr (.inr ⟨hx', ?_, ?_⟩)⟩
      · rintro r l rfl
        cases hbegin
      · exact ⟨rfl, rfl, rfl, transmitTrace_emit (s := { s with halt := some .precondition }) rfl⟩
    · refine ⟨u, hu.transmitInv hs, .inr rfl, ?_⟩
      rcases hu.transmit with henq | hdone | ⟨hi, hsame⟩
      · exact .inl henq
      · exact .inr (.inl hdone)
      · exact .inr (.inr ⟨hx', hi, hsame⟩)

/-- A property of the transmit path that the completion handler keeps is kept by `Deliver()` (R194, R196). -/
theorem deliver_transmit_induct {P : State → Prop} {u : State} (hu : TransmitInv u) (h0 : P u)
    (hsame : ∀ v w, SameTransmit v w → P v → P w)
    (hxfer : ∀ v, TransmitInv v → v.dma.tc = true → P v → P (onTransferComplete v)) : P (deliver u) := by
  obtain ⟨-, hp⟩ : TransmitInv (deliver u) ∧ P (deliver u) := by
    refine deliver_induct (P := fun v => TransmitInv v ∧ P v) ⟨hu, h0⟩ ?_ ?_ ?_
    · rintro v ⟨hv, hp⟩
      exact ⟨hv.congr rfl rfl rfl rfl rfl id, hsame v _ (.of_eq rfl rfl rfl rfl) hp⟩
    · rintro v hh - ⟨hv, hp⟩
      exact ⟨transmitInv_runBusHandler hv hh, hsame v _ (sameTransmit_runBusHandler v) hp⟩
    · rintro v hw ⟨hv, hp⟩
      obtain ⟨htc, -⟩ := Bool.and_eq_true_iff.1 hw
      exact ⟨transmitInv_onTransferComplete hv htc, hxfer v hv htc hp⟩
  exact hp

/-- The completion handler acknowledges, and then starts the oldest message or nothing (R175). -/
theorem otc_cases (s : State) :
    (queueEmpty s = false ∧ onTransferComplete s = startNext (acked s)) ∨ onTransferComplete s = acked s := by
  rw [otc_eq]
  cases hn : startsNext s with
  | true =>
    obtain ⟨hne, -⟩ : queueEmpty s = false ∧ s.dma.active = false := by simpa [startsNext] using hn
    exact .inl ⟨hne, rfl⟩
  | false => exact .inr rfl

/-! ### The phase of the trace -/

/-- The trace is in the phase the accelerator's fields say (R176). -/
def InPhase (s : State) : Prop := tracePhase s.env.trace = some (dmaPhase s.dma)

/-- An action of the bus engine keeps the phase. -/
theorem nextPhase_of_not_transmit {a : Action} (p : Option Phase) (ha : a.isTransmit = false) :
    nextPhase p a = p := by
  cases a <;> simp [Action.isTransmit] at ha <;> rcases p with _ | _ | _ | _ <;> rfl

/-- The phase depends on the transmit path's part of the trace only. -/
theorem tracePhase_filter (tr : List Action) : tracePhase (tr.filter Action.isTransmit) = tracePhase tr := by
  rw [tracePhase, List.foldl_filter, tracePhase]
  congr 1
  funext p a
  cases ha : a.isTransmit with
  | true => rfl
  | false => exact (nextPhase_of_not_transmit p ha).symm

theorem InPhase.congr {s t : State} (h : InPhase s) (hst : SameTransmit s t) : InPhase t := by
  rw [InPhase, ← tracePhase_filter, hst.dma]
  exact (congrArg tracePhase hst.trace).trans ((tracePhase_filter _).trans h)

/-- One action of the trace advances the phase. -/
theorem InPhase.of_append {s t : State} {a : Action} {p q : Phase} (h : InPhase s)
    (htrace : t.env.trace = s.env.trace ++ [a]) (hp : dmaPhase s.dma = p) (hq : dmaPhase t.dma = q)
    (hnext : nextPhase (some p) a = some q) : InPhase t := by
  rw [InPhase, hp, tracePhase] at h
  rw [InPhase, htrace, tracePhase, List.foldl_append, h, hq]
  exact hnext

theorem dmaPhase_of_idle {s : State} (h : idle s = true) : dmaPhase s.dma = .idle := by
  obtain ⟨ha, htc⟩ : s.dma.active = false ∧ s.dma.tc = false := by simpa [idle] using h
  simp [dmaPhase, ha, htc]

/-- A start is a `DMA_START` on an idle accelerator (R172). -/
theorem inPhase_startNext {s : State} (h : InPhase s) (hidle : idle s = true) : InPhase (startNext s) :=
  h.of_append (startNext_env_trace s) (dmaPhase_of_idle hidle) rfl rfl

/-- XFER_DONE is a `TX_BYTES` on an active accelerator (R174). -/
theorem inPhase_completed {s : State} (h : InPhase s) (ha : s.dma.active = true) : InPhase (completed s) :=
  h.of_append (a := .txBytes (sentBytes s)) (p := .active) rfl (by simp [dmaPhase, ha]) rfl rfl

/-- The completion handler is a `DMA_ACK` on a complete accelerator, then perhaps a start (R175). -/
theorem inPhase_onTransferComplete {s : State} (hs : TransmitInv s) (htc : s.dma.tc = true) (h : InPhase s) :
    InPhase (onTransferComplete s) := by
  have ha : s.dma.active = false := by simpa [htc] using hs.oneTransfer
  have hidle : idle (acked s) = true := by simp [idle, acked, ha]
  have hacked : InPhase (acked s) :=
    h.of_append (a := .dmaAck) (p := .done) rfl (by simp [dmaPhase, ha, htc]) (dmaPhase_of_idle hidle) rfl
  rcases otc_cases s with ⟨-, e⟩ | e <;> rw [e]
  · exact inPhase_startNext hacked hidle
  · exact hacked

theorem inPhase_enqueueBody {s : State} (d : Desc) (h : InPhase s) : InPhase (enqueueBody d s) := by
  rcases enqueueBody_cases d s with ⟨-, e⟩ | ⟨-, hidle, e⟩ | ⟨-, -, e⟩ <;> rw [e]
  · exact h
  · exact inPhase_startNext (s := appendDesc d s) h hidle
  · exact h

/-- `Deliver()` keeps the phase (R176). -/
theorem inPhase_deliver {u : State} (hu : TransmitInv u) (h : InPhase u) : InPhase (deliver u) :=
  deliver_transmit_induct hu h (fun _ _ hsame hv => hv.congr hsame)
    fun _ hv htc hp => inPhase_onTransferComplete hv htc hp

/-- Every stimulus keeps the phase (R176). -/
theorem exec_keeps_phase {i : Instr} {s t : State} (hs : TransmitInv s) (h : InPhase s)
    (hexec : exec i s = .next t) : InPhase t := by
  obtain ⟨u, hu, ht, hcase⟩ := exec_transmit hs hexec
  have hphase : InPhase u := by
    rcases hcase with ⟨r, l, -, rfl⟩ | ⟨-, ha, rfl⟩ | ⟨-, -, hsame⟩
    · exact inPhase_enqueueBody ⟨r, l⟩ h
    · exact inPhase_completed h ha
    · exact h.congr hsame
  rcases ht with rfl | rfl
  · exact hphase
  · exact inPhase_deliver hu hphase

/-- Every step keeps the phase (R176). -/
theorem step_keeps_phase {s t : State} (hs : TransmitInv s) (h : InPhase s) (hstep : step s = .next t) :
    InPhase t := by
  have hin : ∀ rest, TransmitInv (s.setInputs rest) := fun _ => hs.congr rfl rfl rfl rfl rfl id
  rcases step_cases hstep with ⟨-, rfl⟩ | ⟨w, rest, i, -, -, hexec⟩ | ⟨rest, -, -, rfl⟩ | ⟨rest, c, -, -, hexec⟩ |
    ⟨a, b, rest, -, rfl⟩
  · exact h
  · exact exec_keeps_phase (hin rest) h hexec
  · exact h
  · exact exec_keeps_phase (hin rest) h hexec
  · exact h

/-- Settles O56: the invariants and the phase are kept by every step. -/
theorem atMostOneTransferInFlight : Obligations.AtMostOneTransferInFlight := by
  intro s t hinv hphase hreach
  obtain ⟨ht, hp⟩ : Invariants t ∧ InPhase t := by
    induction hreach with
    | refl => exact ⟨hinv, hphase⟩
    | step _ hstep ih =>
      obtain ⟨hv, hp⟩ := ih
      obtain ⟨-, htr, -⟩ := invariants_iff.1 hv
      exact ⟨stepKeepsTheInvariants _ _ hv hstep, step_keeps_phase htr hp hstep⟩
  exact ⟨hp, ht.oneTransfer⟩

/-! ### The order of the messages -/

/-- The messages accepted so far: those started, then those still queued (R177). -/
def startedThenQueued (s : State) : List Desc := started s ++ queued s

theorem startedThenQueued_congr {s t : State} (h : SameTransmit s t) : startedThenQueued t = startedThenQueued s := by
  rw [startedThenQueued, startedThenQueued, started_transmit, started_transmit, h.trace, queued_congr h.q h.cfg]

/-- A start moves the oldest message from the queue to the started ones (R172). -/
theorem startedThenQueued_startNext {s : State} (h1 : s.q.head < qslots s.env.cfg)
    (h2 : s.q.tail < qslots s.env.cfg) (hne : queueEmpty s = false) :
    startedThenQueued (startNext s) = startedThenQueued s := by
  simp [startedThenQueued, queued_start s (startNext s) h1 h2 hne rfl rfl, started, startedDesc]

theorem startedThenQueued_onTransferComplete {s : State} (hs : TransmitInv s) :
    startedThenQueued (onTransferComplete s) = startedThenQueued s := by
  have hacked : startedThenQueued (acked s) = startedThenQueued s :=
    congrArg (· ++ queued s) (started_emit rfl)
  rcases otc_cases s with ⟨hne, e⟩ | e <;> rw [e]
  · exact (startedThenQueued_startNext (s := acked s) hs.headInRing hs.tailInRing hne).trans hacked
  · exact hacked

theorem startedThenQueued_completed (s : State) : startedThenQueued (completed s) = startedThenQueued s :=
  congrArg (· ++ queued s) (started_emit (a := .txBytes (sentBytes s)) rfl)

/-- A queue with a message just appended is not empty (R173). -/
theorem queueEmpty_appendDesc {s : State} (d : Desc) (hf : queueFull s = false) :
    queueEmpty (appendDesc d s) = false := by
  simp only [queueFull, decide_eq_false_iff_not] at hf
  exact decide_eq_false (Ne.symm hf)

/-- ENQUEUE adds an accepted message at the end (R173). -/
theorem startedThenQueued_enqueueBody {s : State} (r : Ref) (l : Len) (hs : TransmitInv s) :
    startedThenQueued (enqueueBody ⟨r, l⟩ s) = startedThenQueued s ++ accepted s (.enqueue r l) := by
  have happend (hf : queueFull s = false) :
      startedThenQueued (appendDesc ⟨r, l⟩ s) = startedThenQueued s ++ accepted s (.enqueue r l) := by
    obtain ⟨hq, -⟩ := queued_append s (appendDesc ⟨r, l⟩ s) ⟨r, l⟩ hs.headInRing hs.tailInRing hf hs.slotsWf rfl rfl
    simp [startedThenQueued, hq, accepted, hf, started]
  rcases enqueueBody_cases ⟨r, l⟩ s with ⟨hf, e⟩ | ⟨hf, -, e⟩ | ⟨hf, -, e⟩ <;> rw [e]
  · simp [accepted, hf]
  · exact (startedThenQueued_startNext (s := appendDesc ⟨r, l⟩ s) hs.headInRing (ringNext_lt _ _)
      (queueEmpty_appendDesc _ hf)).trans (happend hf)
  · exact happend hf

/-- `Deliver()` keeps the messages accepted so far and their order (R177). -/
theorem startedThenQueued_deliver {u : State} (hu : TransmitInv u) :
    startedThenQueued (deliver u) = startedThenQueued u :=
  deliver_transmit_induct (P := fun v => startedThenQueued v = startedThenQueued u) hu rfl
    (fun _ _ hsame hv => (startedThenQueued_congr hsame).trans hv)
    fun _ hv _ hp => (startedThenQueued_onTransferComplete hv).trans hp

/-- Only ENQUEUE adds a message (R173). -/
theorem accepted_eq_nil {i : Instr} (s : State) (hi : ∀ r l, i ≠ .enqueue r l) : accepted s i = [] := by
  cases i with
  | enqueue r l => exact absurd rfl (hi r l)
  | _ => rfl

/-- Settles O57: ENQUEUE's body and the end of a transfer are the only changes, and `Deliver()` keeps the messages. -/
theorem messagesLeaveInOrder : Obligations.MessagesLeaveInOrder := by
  intro i s t hinv hexec
  obtain ⟨-, hs, -⟩ := invariants_iff.1 hinv
  obtain ⟨u, hu, ht, hcase⟩ := exec_transmit hs hexec
  obtain ⟨hmsgs, hpend⟩ : startedThenQueued t = startedThenQueued u ∧ pending t = pending u := by
    rcases ht with rfl | rfl
    · exact ⟨rfl, rfl⟩
    · exact ⟨startedThenQueued_deliver hu, pending_deliver hu⟩
  change startedThenQueued t = startedThenQueued s ++ accepted s i ∧ _
  rw [hmsgs, hpend]
  rcases hcase with ⟨r, l, rfl, rfl⟩ | ⟨rfl, ha, rfl⟩ | ⟨hidle, hi, hsame⟩
  · exact ⟨startedThenQueued_enqueueBody r l hs, nofun,
      fun _ => pending_enqueueBody r l hs.headInRing hs.tailInRing hs.slotsWf⟩
  · exact ⟨(startedThenQueued_completed s).trans (List.append_nil _).symm, fun _ _ => pending_completed ha,
      fun hno => by simp [ha] at hno⟩
  · rw [accepted_eq_nil s hi, List.append_nil, List.append_nil]
    exact ⟨startedThenQueued_congr hsame, fun hx ha => absurd ((hidle hx).symm.trans ha) Bool.false_ne_true,
      fun _ => pending_congr hsame.q hsame.dma hsame.cfg⟩

/-! ### ENQUEUE and XFER_DONE with no bus handler to run -/

/-- Settles O37: the length is tested before anything else. -/
theorem emptyMessageIsRefused : Obligations.EmptyMessageIsRefused :=
  fun _ _ => rfl

theorem exec_enqueue {r : Ref} {l : Len} (s : State) (hl : l ≠ 0) :
    exec (.enqueue r l) s = .next (deliver (enqueueBody ⟨r, l⟩ s)) := by
  rw [← enqueueSection_eq s.env.cfg.pCs]
  exact if_neg hl

/-- Whether a bus handler can run depends on the engine, the mask, the halt and the parameters only (R194). -/
theorem NoBusHandler.congr {s t : State} (h : NoBusHandler s) (hien : t.ien = s.ien) (hbus : t.bus = s.bus)
    (hmask : t.prioMask = s.prioMask) (hhalt : t.halt = s.halt) (hcfg : t.env.cfg = s.env.cfg) :
    NoBusHandler t := by
  simpa only [NoBusHandler, busReq, hien, hbus, hmask, hhalt, hcfg] using h

/-- With no bus handler to run, ENQUEUE is its body and then the completion handler, if there is a completion to
handle (R173). -/
theorem exec_enqueue_noBus {r : Ref} {l : Len} {s : State} (hl : l ≠ 0) (hn : NoBusHandler s) :
    exec (.enqueue r l) s = .next
      (if willComplete (enqueueBody ⟨r, l⟩ s) then onTransferComplete (enqueueBody ⟨r, l⟩ s)
       else enqueueBody ⟨r, l⟩ s) := by
  obtain ⟨-, hien, hbus, hmask, hhalt, hcfg, -⟩ := enqueueBody_keeps ⟨r, l⟩ s
  rw [exec_enqueue s hl, deliver_noBus (hn.congr hien hbus hmask hhalt hcfg)]

/-- With no completion to handle either, ENQUEUE is its body alone (R173). -/
theorem exec_enqueue_of_no_tc {r : Ref} {l : Len} {s : State} (hl : l ≠ 0) (hn : NoBusHandler s)
    (htc : (enqueueBody ⟨r, l⟩ s).dma.tc = false) : exec (.enqueue r l) s = .next (enqueueBody ⟨r, l⟩ s) := by
  have hw : willComplete (enqueueBody ⟨r, l⟩ s) = false := by simp [willComplete, htc]
  rw [exec_enqueue_noBus hl hn, hw]
  rfl

theorem enqueueBody_of_idle {s : State} (d : Desc) (hf : queueFull s = false) (hidle : idle s = true) :
    enqueueBody d s = startNext (appendDesc d s) := by
  rcases enqueueBody_cases d s with ⟨hf', -⟩ | ⟨-, -, e⟩ | ⟨-, hidle', -⟩
  · exact absurd (hf.symm.trans hf') Bool.false_ne_true
  · exact e
  · exact absurd (hidle'.symm.trans hidle) Bool.false_ne_true

theorem enqueueBody_of_not_idle {s : State} (d : Desc) (hf : queueFull s = false) (hidle : idle s = false) :
    enqueueBody d s = appendDesc d s := by
  rcases enqueueBody_cases d s with ⟨hf', -⟩ | ⟨-, hidle', -⟩ | ⟨-, -, e⟩
  · exact absurd (hf.symm.trans hf') Bool.false_ne_true
  · exact absurd (hidle.symm.trans hidle') Bool.false_ne_true
  · exact e

theorem enqueueBody_of_full {s : State} (d : Desc) (hf : queueFull s = true) : enqueueBody d s = s :=
  if_pos hf

/-- Settles O34: the body appends and starts, and an idle accelerator has no completion to handle. -/
theorem enqueueOnIdleStarts : Obligations.EnqueueOnIdleStarts := by
  intro r l s hl hf hidle hn
  refine ⟨slotAt (appendDesc ⟨r, l⟩ s) s.q.head, fun hempty hwf => ?_, rfl, ?_⟩
  · have hht : s.q.head = s.q.tail := of_decide_eq_true hempty
    rw [hht]
    exact cellGet_cellPut_same _ _ hwf
  · obtain ⟨-, htc⟩ : s.dma.active = false ∧ s.dma.tc = false := by simpa [idle] using hidle
    have hbody := enqueueBody_of_idle ⟨r, l⟩ hf hidle
    rw [exec_enqueue_of_no_tc hl hn (by rw [hbody]; exact htc), hbody, ← htc]
    rfl

/-- Settles O35: the body only appends, and what is left is a completion that can be handled. -/
theorem enqueueOnBusyOnlyAppends : Obligations.EnqueueOnBusyOnlyAppends := by
  intro r l s hl hf hidle hn u
  have hexec := exec_enqueue_noBus (r := r) hl hn
  rw [enqueueBody_of_not_idle _ hf hidle, show willComplete (appendDesc ⟨r, l⟩ s) = willComplete s from rfl] at hexec
  exact ⟨fun hw => by rw [hexec, hw]; rfl, fun hw => by rw [hexec, hw]; rfl⟩

/-- What `Deliver()` leaves alone where no bus handler can run (R175). -/
theorem deliver_keeps_of_noBus {u : State} (hn : NoBusHandler u) :
    (deliver u).txn = u.txn ∧ (deliver u).ien = u.ien ∧ (deliver u).bus = u.bus ∧
      (deliver u).prioMask = u.prioMask ∧ (deliver u).halt = u.halt ∧ SameSurroundings u (deliver u) ∧
      (deliver u).env.freeCount = u.env.freeCount := by
  rw [deliver_noBus hn]
  split <;> simp [SameSurroundings]

/-- The completion XFER_DONE leaves is handled at once unless the mask of a running block holds it (R174, R179). -/
theorem willComplete_completed_iff {s : State} :
    willComplete (completed s) = true ↔ s.halt ≠ none ∨ s.prioMask < s.env.cfg.pXfer := by
  simp [willComplete, completed, dropStale, Option.isSome_iff_ne_none]

/-- XFER_DONE uses up a free value a byte where the message sent has a breach, and none else (log 7). -/
theorem completed_freeCount (s : State) :
    ((∀ c ∈ s.env.stale, c.message ≠ 0) → (completed s).env.freeCount = s.env.freeCount) ∧
    ((∃ c ∈ s.env.stale, c.message = 0) → (completed s).env.freeCount = s.env.freeCount + s.dma.len.toNat) := by
  constructor <;> intro h
  · exact if_neg (by simpa using h)
  · exact if_pos (by simpa using h)

/-- After XFER_DONE the accelerator is free, so the completion handler starts a message exactly when there is one
(R175). -/
theorem startsNext_completed (s : State) : startsNext (completed s) = !queueEmpty s :=
  Bool.and_true _

/-- Settles O38: XFER_DONE is `completed` and then the completion handler, unless that is masked. -/
theorem xferDoneSendsAndServes : Obligations.XferDoneSendsAndServes := by
  refine ⟨fun s ha hn => ?_, fun s => exec_xferDone_of_not_active⟩
  have hnu : NoBusHandler (completed s) := hn.congr rfl rfl rfl rfl rfl
  obtain ⟨htxn, hien, hbus, hmask, hhalt, ⟨hcfg, hinputs, hmem, hstale⟩, hfree⟩ := deliver_keeps_of_noBus hnu
  obtain ⟨hkept, hused⟩ := completed_freeCount s
  obtain ⟨hq, hdma, htrace⟩ := otc_effect (completed s)
  rw [startsNext_completed] at hq hdma htrace
  have hserved (h : s.halt ≠ none ∨ s.prioMask < s.env.cfg.pXfer) :
      deliver (completed s) = onTransferComplete (completed s) := by
    rw [deliver_noBus hnu, if_pos (willComplete_completed_iff.2 h)]
  refine ⟨_, exec_xferDone_of_active ha, htxn, hien, hbus, hmask, hhalt, hcfg, hinputs, hmem,
    fun c => by rw [hstale]; exact mem_dropStale_stale, fun h => hfree.trans (hkept h),
    fun h => hfree.trans (hused h), fun hrun hheld => ?_, fun h hempty => ?_, fun h hne => ?_⟩
  · have hw : ¬ willComplete (completed s) = true := by
      simpa [willComplete_completed_iff, hrun] using hheld
    rw [deliver_noBus hnu, if_neg hw]
    exact ⟨rfl, rfl, rfl⟩
  · rw [hserved h, hq, hdma, htrace, hempty]
    exact ⟨rfl, rfl, List.append_assoc ..⟩
  · rw [hserved h, hq, hdma, htrace, hne]
    exact ⟨rfl, rfl, List.append_assoc ..⟩

/-! ### The capacity of the queue -/

/-- The queue is full exactly when `QCAP` messages are in it (R35, R178). -/
theorem queueFull_iff {s : State} (h1 : s.q.head < qslots s.env.cfg) (h2 : s.q.tail < qslots s.env.cfg) :
    queueFull s = true ↔ queueLen s = s.env.cfg.qcap := by
  rw [queueFull, decide_eq_true_iff, ringNext_eq h2, queueLen_eq s h1 h2]
  unfold qslots at *
  split <;> split <;> omega

theorem queueLen_of_empty {s : State} (h1 : s.q.head < qslots s.env.cfg) (hempty : queueEmpty s = true) :
    queueLen s = 0 := by
  have hht : s.q.head = s.q.tail := of_decide_eq_true hempty
  rw [queueLen_eq s h1 (hht ▸ h1), hht]
  simp

/-- The invariants leave no bus handler waiting that could run (R194). -/
theorem Invariants.noBusHandler {s : State} (h : Invariants s) : NoBusHandler s := by
  by_cases hh : s.halt = none
  · obtain ⟨hbus, -⟩ := h.noneWaiting hh
    exact .inr hbus
  · exact .inl hh

/-- While a transfer is in flight ENQUEUE is its body alone (R173). -/
theorem exec_enqueue_of_active {r : Ref} {l : Len} {s : State} (h : Invariants s) (ha : s.dma.active = true)
    (hl : l ≠ 0) : exec (.enqueue r l) s = .next (enqueueBody ⟨r, l⟩ s) := by
  have htc : s.dma.tc = false := by simpa [ha] using h.oneTransfer
  have hdma : (enqueueBody ⟨r, l⟩ s).dma = s.dma := by
    rcases enqueueBody_cases ⟨r, l⟩ s with ⟨-, e⟩ | ⟨-, hidle, -⟩ | ⟨-, -, e⟩
    · rw [e]
    · simp [idle, ha] at hidle
    · rw [e, appendDesc_dma]
  exact exec_enqueue_of_no_tc hl h.noBusHandler (by rw [hdma, htc])

/-- While a transfer is in flight, messages that fit are all queued in order and nothing is emitted (R173). -/
theorem runAll_enqueue_of_active {ds : List Desc} {s : State} (h : Invariants s) (ha : s.dma.active = true)
    (hfit : queueLen s + ds.length ≤ s.env.cfg.qcap) (hds : ∀ d ∈ ds, d.len ≠ 0) :
    ∃ t, runAll (ds.map fun d => .enqueue d.ref d.len) s = .next t ∧ Invariants t ∧ t.dma.active = true ∧
      t.env.cfg = s.env.cfg ∧ queueLen t = queueLen s + ds.length ∧ queued t = queued s ++ ds ∧
      t.env.trace = s.env.trace := by
  induction ds generalizing s with
  | nil => exact ⟨s, rfl, h, ha, rfl, rfl, (List.append_nil _).symm, rfl⟩
  | cons d ds ih =>
    simp only [List.length_cons] at hfit
    have hf : queueFull s = false := by
      rw [← Bool.not_eq_true, queueFull_iff h.headInRing h.tailInRing]
      omega
    have hidle : idle s = false := by simp [idle, ha]
    have hexec := exec_enqueue_of_active (r := d.ref) h ha (hds d List.mem_cons_self)
    rw [enqueueBody_of_not_idle _ hf hidle] at hexec
    obtain ⟨hq, hlen⟩ := queued_append s (appendDesc d s) d h.headInRing h.tailInRing hf h.slotsWf rfl rfl
    obtain ⟨t, hrun, ht, hta, hcfg, htlen, htq, htrace⟩ :=
      ih (exec_keeps_invariants h hexec) ha (by rw [hlen, appendDesc_env_cfg]; omega)
        fun d' hd' => hds d' (List.mem_cons_of_mem _ hd')
    refine ⟨t, (runAll_cons hexec).trans hrun, ht, hta, hcfg, ?_, ?_, htrace⟩
    · rw [htlen, hlen, List.length_cons]
      omega
    · rw [htq, hq, List.append_assoc]
      rfl

/-- Settles O58: `QCAP` messages fit into an empty queue, and the next one finds it full. -/
theorem capacityIsQcap : Obligations.CapacityIsQcap := by
  intro ds s h hempty ha hlen hds
  have hzero := queueLen_of_empty h.headInRing hempty
  obtain ⟨t, hrun, ht, hta, hcfg, htlen, htq, htrace⟩ :=
    runAll_enqueue_of_active h ha (Nat.le_of_eq (by rw [hzero, hlen, Nat.zero_add])) hds
  rw [hzero, hlen, Nat.zero_add] at htlen
  have hfull : queueFull t = true := (queueFull_iff ht.headInRing ht.tailInRing).2 (by rw [htlen, hcfg])
  refine ⟨t, hrun, htlen, ?_, htrace, fun r l hl => ?_⟩
  · rw [htq, queued, hzero]
    rfl
  · rw [exec_enqueue_of_active ht hta hl, enqueueBody_of_full _ hfull]

/-! ### The halt loop -/

/-- In the halted state the halt loop's turn is the ENQUEUE of the cause's diagnostic message (R179). -/
theorem haltEmit_of_halted {s : State} {c : Cause} (hc : s.halt = some c) :
    haltEmit s = exec (.enqueue (diagDesc s.env.cfg c).ref (diagDesc s.env.cfg c).len) s := by
  simp only [haltEmit, hc]
  rfl

theorem haltEmit_of_running {s : State} (hh : s.halt = none) : haltEmit s = .next s := by
  simp only [haltEmit, hh]

/-- Settles O9: a turn is `haltEmit`, and a message that is not empty is not refused. -/
theorem haltLoopEnqueuesTheDiagnostic : Obligations.HaltLoopEnqueuesTheDiagnostic := by
  refine ⟨fun s rest c hin hc hl => ?_, fun s rest hin hh => ?_⟩
  · have hexec := exec_enqueue (r := (diagDesc s.env.cfg c).ref) (s.setInputs rest) hl
    exact ⟨_, (step_haltEmit hin).trans ((haltEmit_of_halted (s := s.setInputs rest) hc).trans hexec), hexec⟩
  · exact (step_haltEmit hin).trans (haltEmit_of_running (s := s.setInputs rest) hh)

end Sys2Proof.Machine

/-! PROOFS. The critical section, the gate and the order of delivery (43_critical_section.md). CS_ENTER and CS_EXIT are
the `Deliver()` of a written mask; which handlers it runs, and in which order, is said once for each relation of the
two requests. -/

namespace Sys2Proof.Machine

/-! ### The gate and the handlers -/

/-- Settles O43: the gate's disjuncts at the flags' bit positions. -/
theorem gateTruthTable : Obligations.GateTruthTable := by
  intro ien f
  simp [gate, observed, flagBit, or_assoc]

/-- Settles O44: each handler leaves the other's side as it was, and is a function of its own. -/
theorem handlersCommute : Obligations.HandlersCommute := by
  intro f d s a b
  obtain ⟨htxn, hien, hbus, hhalt, hengine, htransmit⟩ := onBusEvent_after_otc f d s
  obtain ⟨hq, hdma⟩ := otc_congr (onBusEvent_q f d s) (onBusEvent_dma f d s) (onBusEvent_env_cfg f d s)
  have hserved : transmitTrace a = transmitTrace (onTransferComplete s) :=
    otc_transmitTrace_congr (onBusEvent_q f d s) (onBusEvent_dma f d s) (onBusEvent_transmitTrace f d s)
  refine ⟨(otc_txn _).trans htxn.symm, (otc_ien _).trans hien.symm, (otc_bus _).trans hbus.symm,
    (otc_halt _).trans hhalt.symm, hq.trans (onBusEvent_q _ _ _).symm, hdma.trans (onBusEvent_dma _ _ _).symm,
    by simp [a, b], (otc_engineTrace _).trans hengine.symm, hserved.trans htransmit.symm⟩

/-! ### The handlers under another mask -/

/-- The bus handler does not read the mask (R195, R196). -/
theorem runBusHandler_setMask (s : State) (p : Level) :
    runBusHandler (s.setMask p) = (runBusHandler s).setMask p := by
  have hs := onBusEvent_local s.bus.flags s.bus.data (s.setPend false)
  have hp := onBusEvent_local s.bus.flags s.bus.data ((s.setMask p).setPend false)
  exact hp.trans (congrArg (fun t => t.setMask p) hs).symm

/-- The completion handler does not read the mask (R195, R196). -/
theorem onTransferComplete_setMask (s : State) (p : Level) :
    onTransferComplete (s.setMask p) = (onTransferComplete s).setMask p := by
  have hstart : startsNext (s.setMask p) = startsNext s := rfl
  rw [otc_eq, otc_eq, hstart]
  split <;> rfl

theorem onTransferComplete_useFree (s : State) (n : Nat) :
    onTransferComplete (s.useFree n) = (onTransferComplete s).useFree n := by
  have hstart : startsNext (s.useFree n) = startsNext s := rfl
  rw [otc_eq, otc_eq, hstart]
  split <;> rfl

/-! ### `Deliver()` of a running block, by its two requests -/

/-- A running block handles a completion exactly when it is requested (R194). -/
theorem willComplete_of_running {u : State} (hrun : u.halt = none) : willComplete u = xferReq u := by
  simp [willComplete, xferReq, hrun]

section Requests

variable {u : State} (hrun : u.halt = none)
include hrun

theorem deliver_of_no_request (hbus : busReq u = false) (hxfer : xferReq u = false) : deliver u = u := by
  rw [deliver_noBus (.inr hbus), willComplete_of_running hrun, hxfer]
  rfl

theorem deliver_of_xferReq (hbus : busReq u = false) (hxfer : xferReq u = true) :
    deliver u = onTransferComplete u := by
  rw [deliver_noBus (.inr hbus), willComplete_of_running hrun, hxfer]
  rfl

theorem deliver_of_busReq (hbus : busReq u = true) (hxfer : xferReq u = false) :
    deliver u = thenXfer (runBusHandler u) := by
  have hchoose : choose u = .bus := by simp [choose, hrun, hbus, hxfer]
  rw [deliver_eq, hchoose]

/-- A request the completion handler left is served after it. -/
theorem thenBus_of_busReq (hbus : busReq u = true) :
    thenBus (onTransferComplete u) = runBusHandler (onTransferComplete u) := by
  have hkept : busReq (onTransferComplete u) = true := by simpa [busReq] using hbus
  simp [thenBus, hrun, hkept]

end Requests

/-- A completion requested before the bus handler is left to be served, whether or not that handler halts. -/
theorem willComplete_runBus_of_xferReq {u : State} (hxfer : xferReq u = true) :
    willComplete (runBusHandler u) = true := by
  obtain ⟨htc, hmask⟩ : u.dma.tc = true ∧ u.prioMask < u.env.cfg.pXfer := by simpa [xferReq] using hxfer
  simp [willComplete_runBus, htc, hmask]

/-- A completion not requested before the bus handler is left to be served by a fatal halt only (R179). -/
theorem willComplete_runBus_of_no_xferReq {u : State} (hxfer : xferReq u = false) :
    willComplete (runBusHandler u) = (u.dma.tc && (runBusHandler u).halt.isSome) := by
  have hmask : (u.dma.tc && decide (u.prioMask < u.env.cfg.pXfer)) = false := hxfer
  rw [willComplete_runBus, Bool.and_or_distrib_left, hmask, Bool.or_false]

theorem thenXfer_of_willComplete {v : State} (h : willComplete v = true) : thenXfer v = onTransferComplete v :=
  if_pos h

theorem thenXfer_of_not_willComplete {v : State} (h : willComplete v = false) : thenXfer v = v := by
  simp [thenXfer, h]

section BothRequests

variable {u : State} (hrun : u.halt = none) (hbus : busReq u = true) (hxfer : xferReq u = true)
include hrun hbus hxfer

theorem deliver_of_busLevel_larger (hlevel : u.env.cfg.pXfer < u.env.cfg.pBus) :
    deliver u = onTransferComplete (runBusHandler u) := by
  have hchoose : choose u = .bus := by simp [choose, hrun, hbus, hxfer, hlevel]
  rw [deliver_eq, hchoose]
  exact thenXfer_of_willComplete (willComplete_runBus_of_xferReq hxfer)

theorem deliver_of_xferLevel_larger (hlevel : u.env.cfg.pBus < u.env.cfg.pXfer) :
    deliver u = runBusHandler (onTransferComplete u) := by
  have hchoose : choose u = .xfer := by simp [choose, hrun, hbus, hxfer, hlevel, BitVec.le_of_lt hlevel]
  rw [deliver_eq, hchoose]
  exact thenBus_of_busReq hrun hbus

/-- At equal levels the free value picks one of the two orders (U8, log 8). -/
theorem deliver_of_equal_levels (hlevel : u.env.cfg.pBus = u.env.cfg.pXfer) :
    deliver u = (onTransferComplete (runBusHandler u)).useFree 1 ∨
      deliver u = (runBusHandler (onTransferComplete u)).useFree 1 := by
  have hchoose : choose u = .either := by simp [choose, hrun, hbus, hxfer, hlevel]
  rw [deliver_eq, hchoose]
  dsimp only
  split
  · left
    rw [thenXfer_of_willComplete (willComplete_runBus_of_xferReq (u := u.useFree 1) hxfer),
      runBusHandler_useFree, onTransferComplete_useFree]
  · right
    rw [thenBus_of_busReq (u := u.useFree 1) hrun hbus, onTransferComplete_useFree, runBusHandler_useFree]

end BothRequests

/-! ### CS_ENTER -/

theorem toNat_raisedMask (mask level : Level) : (raisedMask mask level).toNat = max mask.toNat level.toNat := by
  unfold raisedMask
  split <;> bv_omega

theorem le_raisedMask (mask level : Level) : mask ≤ raisedMask mask level := by
  rw [BitVec.le_def, toNat_raisedMask]
  exact Nat.le_max_left _ _

/-- A request below the mask stays below a raised one (R190, R194). -/
theorem masked_of_le {request : Bool} {mask raised level : Level} (hle : mask ≤ raised)
    (h : (request && decide (mask < level)) = false) : (request && decide (raised < level)) = false := by
  have hlt : raised < level → mask < level := fun hr => BitVec.lt_def.2 (Nat.lt_of_le_of_lt hle hr)
  cases request with
  | false => rfl
  | true => exact decide_eq_false fun hr => of_decide_eq_false h (hlt hr)

/-- CS_BEGIN is CS_ENTER at `P_CS` (R107). -/
theorem exec_csEnter_of_running {i : Instr} {level : Level} {s : State}
    (hi : i = .csEnter level ∨ (i = .csBegin ∧ level = s.env.cfg.pCs)) (hrun : s.halt = none) :
    exec i s = .next (deliver ((s.emit (.prior s.prioMask)).setMask (raisedMask s.prioMask level))) := by
  rcases hi with rfl | ⟨rfl, rfl⟩ <;> exact congrArg Host.Outcome.next (unlessHalted_of_running hrun _)

/-- Settles O40: the raise asserts no request, so the `Deliver()` runs nothing. -/
theorem csEnterRaisesTheMask : Obligations.CsEnterRaisesTheMask := by
  intro i level s hi hrun hbus hxfer
  have hle := le_raisedMask s.prioMask level
  have hquiet := deliver_of_no_request (u := (s.emit (.prior s.prioMask)).setMask (raisedMask s.prioMask level)) hrun
    (masked_of_le hle hbus) (masked_of_le hle hxfer)
  exact ⟨_, (exec_csEnter_of_running hi hrun).trans (congrArg Host.Outcome.next hquiet), rfl,
    toNat_raisedMask s.prioMask level⟩

/-! ### CS_EXIT -/

theorem exec_csExit_of_running {level : Level} {s : State} (hrun : s.halt = none) :
    exec (.csExit level) s = .next (deliver (s.setMask level)) :=
  congrArg Host.Outcome.next (unlessHalted_of_running hrun _)

/-- Settles O41: CS_EXIT is the `Deliver()` of the new mask, and each clause names its requests. -/
theorem csExitDeliversByPriority : Obligations.CsExitDeliversByPriority := by
  intro level s hrun u
  rw [exec_csExit_of_running hrun]
  refine ⟨fun hbus hxfer => ?_, fun hbus hxfer => ?_, fun hbus hxfer => ?_, fun hbus hxfer hlevel => ?_,
    fun hbus hxfer hlevel => ?_⟩
  · exact congrArg Host.Outcome.next (deliver_of_no_request hrun hbus hxfer)
  · exact congrArg Host.Outcome.next (deliver_of_xferReq hrun hbus hxfer)
  · have hserve := willComplete_runBus_of_no_xferReq (u := u) hxfer
    rw [deliver_of_busReq (u := u) hrun hbus hxfer]
    refine ⟨fun hleft => congrArg Host.Outcome.next (thenXfer_of_not_willComplete (hserve.trans ?_)),
      fun hhalt htc => congrArg Host.Outcome.next (thenXfer_of_willComplete (hserve.trans ?_))⟩
    · rcases hleft with hhalt | htc
      · exact Bool.and_eq_false_iff.2 (.inr (Option.isSome_eq_false_iff.2 (Option.isNone_iff_eq_none.2 hhalt)))
      · exact Bool.and_eq_false_iff.2 (.inl htc)
    · exact Bool.and_eq_true_iff.2 ⟨htc, Option.isSome_iff_ne_none.2 hhalt⟩
  · rw [deliver_of_xferLevel_larger (u := u) hrun hbus hxfer hlevel, runBusHandler, otc_bus]
    rfl
  · exact congrArg Host.Outcome.next (deliver_of_busLevel_larger hrun hbus hxfer hlevel)

/-- Settles O42: the two sides of the delivery are as after either order, and the free value picks the trace. -/
theorem equalLevelsAdmitEitherOrder : Obligations.EqualLevelsAdmitEitherOrder := by
  intro level s hrun hlevel hbus hxfer
  have hdelivered := deliver_busReq (u := s.setMask level) hrun hbus
  obtain ⟨hq, hdma, -⟩ := hdelivered.served (willComplete_runBus_of_xferReq hxfer)
  obtain ⟨htxn, hien, hbus', hhalt, hmask, -⟩ := hdelivered
  rw [runBusHandler_setMask] at htxn hien hbus' hhalt
  rw [onTransferComplete_setMask] at hq hdma
  refine ⟨_, exec_csExit_of_running hrun, htxn, hien, hbus', hhalt, hq, hdma, hmask, ?_⟩
  rcases deliver_of_equal_levels (u := s.setMask level) hrun hbus hxfer hlevel with e | e
  · left
    rw [e, runBusHandler_setMask, onTransferComplete_setMask]
    rfl
  · right
    rw [e, onTransferComplete_setMask, runBusHandler_setMask]
    rfl

end Sys2Proof.Machine

/-! PROOFS. The exceptions (60_exceptions.md): the fatal halt has two causes, the halted state ignores what does not
belong to the transmit path, and a message too many is dropped. All three read off what a stimulus hands to its
`Deliver()`. -/

namespace Sys2Proof.Machine

/-! ### The fatal halt -/

/-- No stimulus moves `halt` before its `Deliver()`; a fatal begin has none (R127, R214). -/
theorem Handed.halt_eq {i : Instr} {s u : State} (h : Handed s i u) : u.halt = s.halt := by
  cases h with
  | enqueue =>
    obtain ⟨-, -, -, -, hhalt, -⟩ := enqueueBody_keeps _ s
    exact hhalt
  | _ => rfl

theorem isBegin_of_presentation {i : Instr} {p : FlagVec × Byte} (hi : presentation i = some p) :
    isBegin i = false := by
  cases i with
  | beginWrite | beginRead | tick => cases hi
  | _ => rfl

/-- A stimulus whose `Deliver()` can run the bus handler is no begin: a begin discards the latch (R121). -/
theorem Handed.isBegin_of_busReq {i : Instr} {s u : State} (h : Handed s i u) (hreq : busReq u = true) :
    isBegin i = false := by
  cases h with
  | @beginWrite r v =>
    obtain ⟨hno, -, -⟩ := no_busReq_after_begin r v s
    exact absurd (hno.symm.trans hreq) Bool.false_ne_true
  | beginRead =>
    obtain ⟨-, hno, -⟩ := no_busReq_after_begin 0 0 s
    exact absurd (hno.symm.trans hreq) Bool.false_ne_true
  | csEnter hi => rcases hi with rfl | ⟨rfl, -⟩ <;> rfl
  | present hi => exact isBegin_of_presentation hi
  | _ => rfl

/-- Settles O47: PRECONDITION is a begin's own, before any `Deliver()`; in a `Deliver()` only the bus handler halts,
with SEQUENCING, and the stimulus has left it the transaction as it was. -/
theorem fatalCauses : Obligations.FatalCauses := by
  intro i s t c h hrun hc
  rcases exec_handed h with ⟨rfl, -⟩ | ⟨hbegin, -, hbusy, rfl⟩ | ⟨u, hu, rfl⟩
  · exact absurd (hrun.symm.trans hc) (by simp)
  · exact .inl ⟨(Option.some.inj hc).symm, hbegin, hbusy⟩
  · rcases deliver_halt u with hkeep | ⟨-, hreq, hseq, hpair⟩
    · exact absurd ((hkeep.trans (hu.halt_eq.trans hrun)).symm.trans hc) (by simp)
    · rw [hu.txn_of_busReq hreq] at hpair
      exact .inr ⟨Option.some.inj (hc.symm.trans hseq), hu.isBegin_of_busReq hreq, hpair⟩

/-! ### The halted state -/

/-- In the halted state only the transmit path's stimuli hand anything to a `Deliver()` (R179, R215). -/
theorem Handed.transmit_of_halted {i : Instr} {s u : State} (h : Handed s i u) (hhalt : s.halt ≠ none) :
    (∃ r l, i = .enqueue r l) ∨ i = .xferDone := by
  cases h with
  | enqueue => exact .inl ⟨_, _, rfl⟩
  | xferDone => exact .inr rfl
  | _ => exact absurd ‹s.halt = none› hhalt

/-- Settles O16: a stimulus that exists and is no ENQUEUE has a next state, and with nothing to deliver and no begin to
fail it is the same state. -/
theorem haltedIgnoresAllButTransmit : Obligations.HaltedIgnoresAllButTransmit := by
  intro i s hhalt hexists henqueue hxfer
  rcases exec_next_or_empty hexists with ⟨t, ht⟩ | ⟨r, rfl, -⟩
  · rcases exec_handed ht with ⟨rfl, -⟩ | ⟨-, hrun, -⟩ | ⟨u, hu, -⟩
    · exact ht
    · exact absurd hrun hhalt
    · rcases hu.transmit_of_halted hhalt with ⟨r, l, rfl⟩ | rfl
      · exact absurd rfl (henqueue r l)
      · exact absurd rfl hxfer
  · exact absurd rfl (henqueue r 0)

/-! ### A message too many -/

/-- Settles O36: on a full queue the body of ENQUEUE is the identity, and its `Deliver()` is left. -/
theorem enqueueOnFullDrops : Obligations.EnqueueOnFullDrops := by
  intro r l s hl hfull hn
  have hexec := exec_enqueue_noBus (r := r) hl hn
  rw [enqueueBody_of_full _ hfull] at hexec
  exact ⟨fun hw => by rw [hexec, hw]; rfl, fun hw => by rw [hexec, hw]; rfl⟩

end Sys2Proof.Machine
/-! PROOFS. The words of the spec's test vectors (95_test_vectors.md, section 2.1), each the word `encode` gives its
stimulus. They rest on `decode_eq_ok_iff`. -/

namespace Sys2Proof

/-- Without `HAS_TIMEOUT` the word of BUS_TIMEOUT is refused by name (R101). -/
theorem decode_encode_busTimeout_of_not_hasTimeout {cfg : Config} (h : cfg.hasTimeout = false) :
    decode cfg (encode cfg .busTimeout) = .error .noTimeout := by
  simp [decode, encode, h]

/-- Settles O5: each written-out word is the word of its stimulus (the first `rfl`), which exists under the named
parameters and stands for itself; BUS_TIMEOUT does not exist under the last. -/
theorem writtenOutWordsDecode : Obligations.WrittenOutWordsDecode := by
  refine ⟨?beginWrite, ?beginRead, ?pollBusy, ?enqueue, ?csEnter, ?csExit, ?busEvent, ?xferDone, ?busTimeout,
    ?noTimeout⟩
  case noTimeout => exact decode_encode_busTimeout_of_not_hasTimeout (cfg := Config.default) rfl
  all_goals exact decode_eq_ok_iff.2 ⟨rfl, rfl, rfl⟩

end Sys2Proof
